-- ==== Sys2Proof/Word.lean ====
section
/-! DEFINITION. The two value widths the ports of MMJ-PFD carry (00_scope R9, R11): the byte and the 32-bit word. -/

namespace Sys2Proof

/-- A byte is 8 bits (R11). -/
abbrev Byte := BitVec 8

/-- A `u32`: a command word, an operand word, a key, a checksum, a response value (R9). -/
abbrev Word := BitVec 32

/-- A frame is a byte sequence with a marked end (R62); as a list, its end is the end of the list. -/
abbrev Frame := List Byte

end Sys2Proof
end

