-- ==== Sys2Proof/Syntax.lean ====
section
/-! DEFINITION. The ten host operations, one constructor per row of spec/opcode_table.json (30_encoding R103, Table H3). -/

namespace Sys2Proof

/-- A host operation with its operands, as the command port carries them (Table H3). -/
inductive Instr where
  /-- ENC: frame the logical command of protocol opcode `op` and payload `data` (R152). -/
  | enc (op : Byte) (data : List Byte)
  /-- CSUM: the keyed checksum of `data` (R134). -/
  | csum (data : List Byte)
  /-- KEXB: build the SetCrcKey frame for the candidate `key` (R203). -/
  | kexb (key : Word)
  /-- KEXC: commit the pending key exchange (R205). -/
  | kexc
  /-- KEXA: abort the pending key exchange (R206). -/
  | kexa
  /-- RXB: give the received byte `b` to the deframer (R174). -/
  | rxb (b : Byte)
  /-- RXE: the receive buffer ends here (R176). -/
  | rxe
  /-- SETV: write VERIFY_EN. `arg` is the whole of ARG8: bit 0 is the operand, bits 7:1 must be 0 (R220; DEDUCED, log entry 13). -/
  | setv (arg : Byte)
  /-- RDST: read STATUS (R221). -/
  | rdst
  /-- SRST: soft reset, a new session (R222). -/
  | srst
deriving DecidableEq, Repr

end Sys2Proof
end

