-- ==== Sys2Proof/WellFormed.lean ====
section
/-! DEFINITION. What a transaction on the command port is, when one is legal (30_encoding R102 to R104, by Table H3), and when
an instruction's operands are ones its encoding admits. -/

namespace Sys2Proof

/-- One transaction on the command port (20_memory R61): the command word, the operand words, the data bytes. The interface
delimits it, so its shape is part of it. Shapes that no format has can be written down and are illegal (R102; DEDUCED, log entry 14). -/
structure Transaction where
  cw : Word
  words : List Word
  data : List Byte
deriving DecidableEq, Repr

/-- The four transaction formats (R102). -/
inductive Format where
  | n | b | w | d
deriving DecidableEq, Repr

/-- The shape a format asks for (R102): N and B are CW alone, W has exactly one operand word, D has data bytes only. -/
def Format.fits (f : Format) (t : Transaction) : Bool :=
  match f with
  | .n | .b => t.words.isEmpty && t.data.isEmpty
  | .w => t.words.length == 1 && t.data.isEmpty
  | .d => t.words.isEmpty

/-- One row of Table H3. CW selects the row when `CW AND mask = value` (R103). -/
structure OpRow where
  mnemonic : String
  format : Format
  value : Word
  mask : Word
deriving DecidableEq, Repr

/-- Table H3 (R103), in its order. -/
def opTable : List OpRow :=
  [ ⟨"ENC", .d, 0x00000001#32, 0xFFFF00FF#32⟩,
    ⟨"CSUM", .d, 0x00000002#32, 0xFFFFFFFF#32⟩,
    ⟨"KEXB", .w, 0x00000003#32, 0xFFFFFFFF#32⟩,
    ⟨"KEXC", .n, 0x00000004#32, 0xFFFFFFFF#32⟩,
    ⟨"KEXA", .n, 0x00000005#32, 0xFFFFFFFF#32⟩,
    ⟨"RXB", .b, 0x00000006#32, 0xFFFF00FF#32⟩,
    ⟨"RXE", .n, 0x00000007#32, 0xFFFFFFFF#32⟩,
    ⟨"SETV", .b, 0x00000008#32, 0xFFFFFEFF#32⟩,
    ⟨"RDST", .n, 0x00000009#32, 0xFFFFFFFF#32⟩,
    ⟨"SRST", .n, 0x0000000A#32, 0xFFFFFFFF#32⟩ ]

/-- CW selects the row (R103). -/
def OpRow.selectedBy (r : OpRow) (cw : Word) : Bool := cw &&& r.mask == r.value

/-- "a transaction is legal exactly when its CW matches one row of Table H3 and its shape fits that row's format" (R104). -/
def Transaction.legal (t : Transaction) : Bool :=
  opTable.any fun r => r.selectedBy t.cw && r.format.fits t

/-- The operands an encoding admits: SETV's ARG8 has bits 7:1 zero (R220). Every other operand has the width of its field or is
a byte sequence of any length, so its type says all there is to say. -/
def Instr.wf : Instr → Bool
  | .enc _ _ => true
  | .csum _ => true
  | .kexb _ => true
  | .kexc => true
  | .kexa => true
  | .rxb _ => true
  | .rxe => true
  | .setv arg => arg.toNat ≤ 1
  | .rdst => true
  | .srst => true

end Sys2Proof
end

