-- ==== Sys2Proof/Decode.lean ====
section
/-! DEFINITION. The decoder of the command port, total on every transaction and rejecting by name, and the encoder (30_encoding
R100 to R104, Tables H1, H3, H4). -/

namespace Sys2Proof

/-- OPN, CW bits 3:0 (Table H1). -/
def opnOf (cw : Word) : BitVec 4 := cw.extractLsb' 0 4

/-- RSV0, CW bits 7:4, must be 0 (Table H1). -/
def rsv0Of (cw : Word) : BitVec 4 := cw.extractLsb' 4 4

/-- ARG8, CW bits 15:8, unsigned, never sign-extended, scaled or shifted (R100). -/
def arg8Of (cw : Word) : Byte := cw.extractLsb' 8 8

/-- RSV1, CW bits 31:16, must be 0 (Table H1). -/
def rsv1Of (cw : Word) : BitVec 16 := cw.extractLsb' 16 16

/-- Why a transaction is illegal: the clauses of R104. All four end in ERR(IllegalOp, CW). -/
inductive DecodeError where
  /-- OPN is 0x0 or 0xB to 0xF. -/
  | reservedOperation
  /-- RSV0 or RSV1 is not zero. -/
  | reservedBits
  /-- ARG8 is not zero where it must be, or has bits 7:1 set for SETV. -/
  | argument
  /-- The shape of the transaction does not fit the format of its OPN (R102). -/
  | shape
deriving DecidableEq, Repr

/-- `i`, if the argument is as its row asks and the shape fits. -/
def acceptIf (argOk shapeOk : Bool) (i : Instr) : Except DecodeError Instr :=
  if argOk = false then .error .argument
  else if shapeOk = false then .error .shape
  else .ok i

/-- The operation a transaction stands for (R103, R104). -/
def decode (t : Transaction) : Except DecodeError Instr :=
  let arg := arg8Of t.cw
  if rsv0Of t.cw ≠ 0 ∨ rsv1Of t.cw ≠ 0 then .error .reservedBits
  else match (opnOf t.cw).toNat with
    | 1 => acceptIf true (Format.d.fits t) (.enc arg t.data)
    | 2 => acceptIf (arg == 0) (Format.d.fits t) (.csum t.data)
    | 3 => acceptIf (arg == 0) (Format.w.fits t) (.kexb (t.words.headD 0))
    | 4 => acceptIf (arg == 0) (Format.n.fits t) .kexc
    | 5 => acceptIf (arg == 0) (Format.n.fits t) .kexa
    | 6 => acceptIf true (Format.b.fits t) (.rxb arg)
    | 7 => acceptIf (arg == 0) (Format.n.fits t) .rxe
    | 8 => acceptIf (arg.extractLsb' 1 7 == 0) (Format.b.fits t) (.setv arg)
    | 9 => acceptIf (arg == 0) (Format.n.fits t) .rdst
    | 10 => acceptIf (arg == 0) (Format.n.fits t) .srst
    | _ => .error .reservedOperation

/-- The command word with the given OPN and ARG8 and the reserved bits zero (Table H1). -/
def commandWord (opn : Word) (arg : Byte) : Word := opn ||| (arg.setWidth 32 <<< 8)

/-- The transaction of an operation (Table H4). -/
def encode : Instr → Transaction
  | .enc op data => ⟨commandWord 0x00000001#32 op, [], data⟩
  | .csum data => ⟨commandWord 0x00000002#32 0, [], data⟩
  | .kexb key => ⟨commandWord 0x00000003#32 0, [key], []⟩
  | .kexc => ⟨commandWord 0x00000004#32 0, [], []⟩
  | .kexa => ⟨commandWord 0x00000005#32 0, [], []⟩
  | .rxb b => ⟨commandWord 0x00000006#32 b, [], []⟩
  | .rxe => ⟨commandWord 0x00000007#32 0, [], []⟩
  | .setv arg => ⟨commandWord 0x00000008#32 arg, [], []⟩
  | .rdst => ⟨commandWord 0x00000009#32 0, [], []⟩
  | .srst => ⟨commandWord 0x0000000A#32 0, [], []⟩

/-- `count` pieces of `width` bits of `w` from bit `lo` up, the lowest first. -/
def bitPieces (width : Nat) (w : Nat) : Nat → Nat → List (BitVec width)
  | _, 0 => []
  | lo, count + 1 => BitVec.ofNat width (w >>> lo) :: bitPieces width w (lo + width) count

/-- The transaction whose bits are the low `nbits` of `w`, every bit above them 0: CW is bits 31:0. What follows it is
split as the format of CW's OPN asks: operand words of 32 bits for KEXB (at least the one it needs), data bytes for the rest. The
spec gives the command port no bit numbering across a transaction (R67): DESIGN CHOICE, log entry 12. -/
def transactionOfBits (nbits w : Nat) : Transaction :=
  let w := w % 2 ^ nbits
  let cw := BitVec.ofNat 32 w
  let extra := nbits - 32
  if opnOf cw = 3 then ⟨cw, bitPieces 32 w 32 (max 1 ((extra + 31) / 32)), []⟩
  else ⟨cw, [], bitPieces 8 w 32 ((extra + 7) / 8)⟩

/-- The operation the decoder reads from an instruction whose bits are `w`, numbered as spec/opcode_table.json numbers them. -/
def decodeTableWord (nbits w : Nat) : Option Instr :=
  match decode (transactionOfBits nbits w) with
  | .ok i => some i
  | .error _ => none

end Sys2Proof
end

