-- ==== Sys2Proof/Config.lean ====
section
/-! DEFINITION. The parameters of Table P1 (00_scope R6) and the free values. What the spec fixes is a constant; what it
leaves OPEN is an opaque constant, so that a theorem holds for every value of it. -/

namespace Sys2Proof

/-- The eight names of the protocol opcode catalog (R97): "Fixed, closed set". -/
inductive OpcodeName where
  | setPaperType | getSerialNumber | setHeatDensity | getBatteryStatus
  | printData | feedLine | printTestPage | setCrcKey
deriving DecidableEq, Repr

/-- The policy of ENC above MAX_CMD (R6, R153). -/
inductive SeqPolicy where
  | reject
  | wrap
deriving DecidableEq, Repr

namespace Config

/-- SOM, the start marker byte (Table P1). -/
def som : Byte := 0x02#8

/-- EOM, the end marker byte (Table P1). -/
def eom : Byte := 0x03#8

/-- HDR_LEN: marker, opcode, sequence, two length bytes (Table P1). -/
def hdrLen : Nat := 5

/-- FRAME_OVERHEAD: frame length minus payload length (Table P1). -/
def frameOverhead : Nat := 10

/-- MAX_CHUNK, a constant of the block (R8). -/
def maxChunk : Nat := 2016

/-- MAX_CMD = 256 × MAX_CHUNK: the largest payload that needs no sequence wrap (Table P1). -/
def maxCmd : Nat := 256 * maxChunk

/-- KEY_DEFAULT, hardwired: no operation writes it and reset does not change it (10_state R21). -/
def keyDefault : Word := 0x35769521#32

/-- SEQ_POLICY: this hardware takes REJECT (R153, decision D5). -/
def seqPolicy : SeqPolicy := .reject

/-- RX_CAP, the capacity of the record payload buffer (Table P1, R38). -/
def rxCap : Nat := 65535

/-- MAX_READ, a property of the transport; "used by no rule of the block" (Table P1), so no definition uses it. -/
def maxRead : Nat := 1024

/-- The place of a catalog name in the source's list; a key for `opcodeAssignment`, not an opcode value. -/
def opcodeIndex : OpcodeName → Byte
  | .setPaperType => 0#8
  | .getSerialNumber => 1#8
  | .setHeatDensity => 2#8
  | .getBatteryStatus => 3#8
  | .printData => 4#8
  | .feedLine => 5#8
  | .printTestPage => 6#8
  | .setCrcKey => 7#8

/-- OPEN: the values of the eight protocol opcodes (R97, decision D4). A bijection of bytes, so that the eight are pairwise
distinct and otherwise anything: every pairwise distinct assignment extends to one. Log entry 6. -/
opaque opcodeAssignment : Equiv.Perm Byte

/-- OPC.<name>, in 0..255, pairwise distinct (R97). -/
def opc (name : OpcodeName) : Byte := opcodeAssignment (opcodeIndex name)

/-- FREE VALUE: the bits of a key register that holds no value ("a hardware register would hold arbitrary bits that nothing
reads", R22). No reachable state reads it. Log entry 9. -/
opaque freeKeyBits : Word

/-- FREE VALUE: the count ENC answers for a number of frames that a `u32` cannot hold, which only SEQ_POLICY = WRAP admits and
for which no rule states a value. Log entry 10. -/
opaque freeFrameCount : Nat → Word

end Config

end Sys2Proof
end

