-- ==== Sys2Proof/Machine/Checksum.lean ====
section
/-! DEFINITION. KCRC, the keyed CRC-32 (40_keyring R131, decision D3). Every other definition uses it through its name. The rule
takes the polynomial, the bit order and the two inversions from general knowledge: PRESUMED, log entry 7. -/

namespace Sys2Proof.Machine

/-- The inner step of R131: one bit, least significant first, reflected polynomial. -/
def crcBit (c : Word) : Word :=
  if c.getLsbD 0 then (c >>> 1) ^^^ 0xEDB88320#32 else c >>> 1

/-- One byte: it enters bits 7:0, then the inner step eight times (R131). -/
def crcByte (c : Word) (b : Byte) : Word := crcBit^[8] (c ^^^ b.setWidth 32)

/-- KCRC(key, data) (R131). -/
def kcrc (key : Word) (data : List Byte) : Word :=
  data.foldl crcByte (key ^^^ 0xFFFFFFFF#32) ^^^ 0xFFFFFFFF#32

end Sys2Proof.Machine
end

