-- ==== Sys2Proof/Machine/Operands.lean ====
section
/-! DEFINITION. Byte order: LE16, LE32, MemRead (00_scope R12), and the write of one byte of a wider register (42_deframer R174). -/

namespace Sys2Proof.Machine

/-- LE16(v) (R12). -/
def le16 (v : BitVec 16) : List Byte := [v.extractLsb' 0 8, v.extractLsb' 8 8]

/-- LE32(v) (R12). -/
def le32 (v : BitVec 32) : List Byte :=
  [v.extractLsb' 0 8, v.extractLsb' 8 8, v.extractLsb' 16 8, v.extractLsb' 24 8]

/-- The unsigned value of a byte sequence, its first byte the least significant. -/
def leValue : List Byte → Nat
  | [] => 0
  | b :: rest => b.toNat + 256 * leValue rest

/-- MemRead(buf, off, n) (R12). The rule defines it for `off + n ≤ len(buf)` only, and every use below is inside that (log entry
18). -/
def memRead (buf : List Byte) (off n : Nat) : Nat := leValue ((buf.drop off).take n)

/-- `REG[8j+7 : 8j] <- b` (R174, R39): byte `j` of the register becomes `b`, every other bit stays. -/
def insertByte {w : Nat} (v : BitVec w) (j : Nat) (b : Byte) : BitVec w :=
  (v &&& ~~~((0xFF#8).setWidth w <<< (8 * j))) ||| (b.setWidth w <<< (8 * j))

end Sys2Proof.Machine
end

