-- ==== Sys2Proof/Machine/State.lean ====
section
/-! DEFINITION. The state of the block (10_state R20, Table S1), the values its ports carry (20_memory R60), and the state after
reset (R46). -/

namespace Sys2Proof.Machine

/-- The seven error kinds of Table E1 (60_exceptions R240). The block raises four of them; TransportUnavailable, ShortWrite and
TransportTimeout arise on the host side (R241 to R243) and no operation answers them. -/
inductive ErrorKind where
  | transportUnavailable
  | shortWrite
  | truncationError
  | oversizedCommand
  | checksumMismatch
  | illegalOp
  | transportTimeout
deriving DecidableEq, Repr

/-- One response (30_encoding R101): `code` 0 is success, any other an error kind's code with its info word as `value`. -/
structure Response where
  code : Byte
  value : Word
deriving DecidableEq, Repr

/-- The source's InboundRecord (20_memory R64), what DecodeOne returns (R171). -/
structure InboundRecord where
  opcode : Byte
  seq : Byte
  length : BitVec 16
  payload : List Byte
  checksum : Word
deriving DecidableEq, Repr

/-- The verdict a delivered record carries (R64, R180). -/
inductive CrcStatus where
  | notChecked
  | ok
  | mismatch
deriving DecidableEq, Repr

/-- A record on the REC stream: the InboundRecord and its `crc_status` (R64). -/
structure Record extends InboundRecord where
  crcStatus : CrcStatus
deriving DecidableEq, Repr

/-- What comes to the block from outside, one at a time: a host operation (R61) or a hardware reset (R280). -/
inductive Input where
  | op (t : Transaction)
  | hardwareReset
deriving DecidableEq, Repr

/-- The state of the block. KEY_DEFAULT is hardwired and is `Config.keyDefault` (R21); STATUS is a computed view and is
`statusWord` (R44). `inputs`, `responses`, `tx` and `records` are what the ports carry (R60), not registers of the block: the
inputs still to come and everything given out so far, each oldest first (DESIGN CHOICE, log entries 1 and 3). -/
structure State where
  /-- The command port: the transactions, and the hardware resets, not yet taken. -/
  inputs : List Input
  /-- SKEY, the session key (R22). -/
  skey : Option Word
  /-- NEG, the negotiated flag (R23). -/
  neg : Bool
  /-- PKEY, the pending candidate key (R25). -/
  pkey : Option Word
  /-- KEXP, the key-exchange-pending flag (R26). -/
  kexp : Bool
  /-- VERIFY_EN, CTRL bit 0 (R28). -/
  verifyEn : Bool
  /-- TX_SEQ, the sequence counter (R30). -/
  txSeq : BitVec 8
  /-- RX_POS, the bytes of the incomplete frame consumed so far (R36). -/
  rxPos : BitVec 17
  /-- RX_OP (R37). -/
  rxOp : BitVec 8
  /-- RX_SEQ (R37). -/
  rxSeq : BitVec 8
  /-- RX_LEN (R37). -/
  rxLen : BitVec 16
  /-- RX_PAY, the record payload buffer (R38). -/
  rxPay : List Byte
  /-- RX_CRC (R39). -/
  rxCrc : BitVec 32
  /-- The response port: every response given. -/
  responses : List Response
  /-- The TX stream: every frame closed (R62). -/
  tx : List Frame
  /-- The REC stream: every record delivered (R64). -/
  records : List Record
deriving DecidableEq, Repr

/-- Nothing stops this machine: an operation that fails answers ERR and the block is ready for the next (60_exceptions R252,
R253). So there is no fault, and a claim that none is raised is safe: the type has no constructor to raise. -/
inductive Fault where
deriving DecidableEq, Repr

/-- Why a step has no meaning. -/
inductive Refusal where
  /-- Raised by an arm of `exec` whose operation has no meaning yet; safe. No arm of this model raises it. -/
  | notModelled (mnemonic : String)
deriving DecidableEq, Repr

/-- The outcome of an operation. -/
abbrev Result := Host.Outcome State Fault Refusal

/-- The state after a hardware reset at power-on (R46, R281). RX_OP, RX_SEQ, RX_LEN and RX_CRC are unspecified there: 0 is a DESIGN
CHOICE (log entry 4). No operation is waiting and nothing has been emitted. -/
def State.reset : State where
  inputs := []
  skey := none
  neg := false
  pkey := none
  kexp := false
  verifyEn := false
  txSeq := 0
  rxPos := 0
  rxOp := 0
  rxSeq := 0
  rxLen := 0
  rxPay := []
  rxCrc := 0
  responses := []
  tx := []
  records := []

end Sys2Proof.Machine
end

