-- ==== Sys2Proof/Machine/Ops.lean ====
section
/-! DEFINITION. The named operations over the state that the meanings share: responding, raising an error (the analogue of taking
an exception), the key, the TX and REC streams, the reset of a session. -/

namespace Sys2Proof.Machine

/-! ## The response port (30_encoding R101) -/

/-- The code of an error kind (60_exceptions R240, Table E1). -/
def errorCode : ErrorKind → Byte
  | .transportUnavailable => 0x01#8
  | .shortWrite => 0x02#8
  | .truncationError => 0x03#8
  | .oversizedCommand => 0x04#8
  | .checksumMismatch => 0x05#8
  | .illegalOp => 0x06#8
  | .transportTimeout => 0x07#8

/-- Append one response (R101). -/
def respond (code : Byte) (value : Word) (s : State) : State :=
  { s with responses := s.responses ++ [⟨code, value⟩] }

/-- `respond OK(v)`; `respond OK` is `respondOk 0` (R13, R101). -/
def respondOk (v : Word) (s : State) : State := respond 0 v s

/-- `raise E(info)` (R13, R252): taking an exception. The response ERR(code, info) is given and nothing else happens (DEDUCED, log entry 11): nothing is
saved, no control is transferred, no mode changes and no error register is kept, so there is no return from it either (R253).
What the operation wrote before it raised is in `s`. -/
def raiseError (e : ErrorKind) (info : Word) (s : State) : State := respond (errorCode e) info s

/-- A transaction that is illegal (R104): ERR(IllegalOp, CW), no change of state, no output. -/
def refuseTransaction (t : Transaction) (s : State) : State := raiseError .illegalOp t.cw s

/-! ## The keyring (40_keyring) -/

/-- The value of a key register. One without a value is never read in a reachable state (R22, R25); its bits are a free value (log
entry 9). -/
def keyBits (k : Option Word) : Word := k.getD Config.freeKeyBits

/-- ActiveKey() (R130). -/
def activeKey (s : State) : Word := if s.neg then keyBits s.skey else Config.keyDefault

/-- ACTIVATE(k) (R133). -/
def activate (k : Word) (s : State) : State := { s with skey := some k, neg := true }

/-! ## The TX stream (20_memory R62) -/

/-- The TX stream inside one operation: the frames closed and the bytes of the frame under construction. Between operations no frame
is under construction (R62), so State holds the closed frames alone. -/
structure TxPort where
  closed : List Frame
  building : Frame
deriving DecidableEq, Repr

/-- `TxEmit(b)` (R13, R62). -/
def txEmit (p : TxPort) (b : Byte) : TxPort := { p with building := p.building ++ [b] }

/-- `TxEmit` of each byte of a sequence, in order. -/
def txEmitAll (p : TxPort) (bs : List Byte) : TxPort := bs.foldl txEmit p

/-- `TxEndFrame()` (R13, R62). -/
def txEndFrame (p : TxPort) : TxPort := ⟨p.closed ++ [p.building], []⟩

/-- The TX stream at the start of an operation. -/
def txOpen (s : State) : TxPort := ⟨s.tx, []⟩

/-! ## The REC stream (20_memory R64) -/

/-- `RecEmit(r)` (R13, R64). -/
def recEmit (r : Record) (s : State) : State := { s with records := s.records ++ [r] }

/-! ## The deframer (10_state R36, R38) -/

/-- `RX_POS <- 0 ; RX_PAY <- []`: the deframer stands at a frame boundary. -/
def frameBoundary (s : State) : State := { s with rxPos := 0, rxPay := [] }

/-! ## Reset (R222, R280, R281) -/

/-- The state change the two resets share (R222, R280): every register to its reset value, RX_OP, RX_SEQ, RX_LEN and RX_CRC keeping
whatever bits they had (for the hardware reset DEDUCED, log entry 5); what was emitted is not retracted. -/
def resetSession (s : State) : State :=
  frameBoundary
    { s with skey := none, neg := false, pkey := none, kexp := false, verifyEn := false, txSeq := 0 }

end Sys2Proof.Machine
end

