-- ==== Sys2Proof/Machine/Flags.lean ====
section
/-! DEFINITION. The flags (10_state R43) and the STATUS word (R44, Table S2). The block has no arithmetic condition codes. -/

namespace Sys2Proof.Machine

/-- A flag as a `u32` (`zext_32`). -/
def flagWord (b : Bool) : Word := if b then 1#32 else 0#32

/-- RX_BUSY, the derived flag: 1 exactly when RX_POS ≠ 0 (R43). -/
def rxBusy (s : State) : Bool := s.rxPos != 0

/-- STATUS (R44, and the pseudocode of R221). -/
def statusWord (s : State) : Word :=
  flagWord s.neg ||| (flagWord s.kexp <<< 1) ||| (flagWord s.verifyEn <<< 2) |||
    (flagWord (rxBusy s) <<< 3) ||| (s.txSeq.setWidth 32 <<< 8)

/-- The checksum the block computes over the payload it holds, under the key active now (R180, R181). -/
def rxChecksum (s : State) : Word := kcrc (activeKey s) s.rxPay

/-- `crc_status` of the frame the deframer has just completed (R180). -/
def crcVerdict (s : State) : CrcStatus :=
  if s.verifyEn then (if rxChecksum s = s.rxCrc then .ok else .mismatch) else .notChecked

end Sys2Proof.Machine
end

