-- ==== Sys2Proof/Machine/Deframer.lean ====
section
/-! DEFINITION. The deframer: the source's functions DecodeOne and Parse over a whole buffer (42_deframer R171, R172) and the host
operations RXB and RXE that do the same byte by byte (R174 to R176). -/

namespace Sys2Proof.Machine

/-- DecodeOne(buf, off) (R171). The markers must be present and are not read (R96). -/
def decodeOne (buf : List Byte) (off : Nat) : Except ErrorKind (InboundRecord × Nat) :=
  let avail := buf.length - off
  let n := memRead buf (off + 3) 2
  if avail < 5 then .error .truncationError
  else if avail < 10 + n then .error .truncationError
  else .ok
    ({ opcode := BitVec.ofNat 8 (memRead buf (off + 1) 1)
       seq := BitVec.ofNat 8 (memRead buf (off + 2) 1)
       length := BitVec.ofNat 16 n
       payload := (buf.drop (off + 5)).take n
       checksum := BitVec.ofNat 32 (memRead buf (off + 5 + n) 4) }, 10 + n)

/-- The loop of Parse (R172) from an offset. The first argument bounds the passes: each advances the offset by at least 10, so
`len(buf) + 1` are always enough. -/
def parseFrom (buf : List Byte) : Nat → Nat → List InboundRecord × Option ErrorKind
  | 0, _ => ([], none)
  | fuel + 1, off =>
    if off = buf.length then ([], none)
    else match decodeOne buf off with
      | .error e => ([], some e)
      | .ok (r, used) =>
        let rest := parseFrom buf fuel (off + used)
        (r :: rest.1, rest.2)

/-- Parse(buf) (R172). -/
def parseBuffer (buf : List Byte) : List InboundRecord × Option ErrorKind :=
  parseFrom buf (buf.length + 1) 0

/-- The store of RXB's byte according to the position it arrives at (R174, Table X1 of R175). The last branch takes the end
marker, and the positions beyond it that no run reaches (DEDUCED, log entry 17). -/
def rxStore (b : Byte) (s : State) : State :=
  let p := s.rxPos.toNat
  let n := s.rxLen.toNat
  if p = 0 then s
  else if p = 1 then { s with rxOp := b }
  else if p = 2 then { s with rxSeq := b }
  else if p = 3 then { s with rxLen := insertByte s.rxLen 0 b }
  else if p = 4 then { s with rxLen := insertByte s.rxLen 1 b }
  else if p < 5 + n then { s with rxPay := s.rxPay ++ [b] }
  else if p < 9 + n then { s with rxCrc := insertByte s.rxCrc (p - 5 - n) b }
  else s

/-- `p ≥ 5 and p = 9 + RX_LEN`: the byte at this position completes a frame (R174). -/
def rxCompletes (s : State) : Bool := 5 ≤ s.rxPos.toNat && s.rxPos.toNat == 9 + s.rxLen.toNat

/-- The record the RX registers hold, with the verdict of R180 on it. -/
def rxRecord (s : State) : Record :=
  { opcode := s.rxOp, seq := s.rxSeq, length := s.rxLen, payload := s.rxPay, checksum := s.rxCrc,
    crcStatus := crcVerdict s }

/-- The end of a frame (R174, R180): the record is delivered whatever its verdict, the deframer returns to a frame boundary, and a
mismatch is reported with the checksum the block computed. -/
def rxDeliver (s : State) : State :=
  let t := frameBoundary (recEmit (rxRecord s) s)
  if crcVerdict s = .mismatch then raiseError .checksumMismatch (rxChecksum s) t else respondOk 1 t

/-- RXB (R174). -/
def execRxb (b : Byte) (s : State) : Result :=
  .next (if rxCompletes s then rxDeliver (rxStore b s)
    else respondOk 0 { rxStore b s with rxPos := s.rxPos + 1 })

/-- RXE (R176): the receive buffer ends; a frame left incomplete is dropped and reported with the number of its bytes. -/
def execRxe (s : State) : Result :=
  .next (if s.rxPos ≠ 0 then raiseError .truncationError (s.rxPos.setWidth 32) (frameBoundary s)
    else respondOk 0 (frameBoundary s))

end Sys2Proof.Machine
end

