-- ==== Sys2Proof/Machine/Framer.lean ====
section
/-! DEFINITION. The framer: the pure functions Split, Frame and Encode (41_framer R150, R151) and the host operation ENC (R152 to
R157). ENC's loop is the rule's pseudocode; that it emits exactly Encode is a statement, not a definition. -/

namespace Sys2Proof.Machine

/-- K(n), the number of chunks of a payload of length n (R150). -/
def chunkCount (n : Nat) : Nat := max 1 ((n + Config.maxChunk - 1) / Config.maxChunk)

/-- Chunk number k of a payload (R150). -/
def chunkAt (payload : List Byte) (k : Nat) : List Byte :=
  (payload.drop (k * Config.maxChunk)).take Config.maxChunk

/-- Split(payload) (R150). -/
def splitPayload (payload : List Byte) : List (List Byte) :=
  (List.range (chunkCount payload.length)).map (chunkAt payload)

/-- Frame(op, seq, chunk, key) (R151), for a chunk of at most 65535 bytes. -/
def frameBytes (op seq : Byte) (chunk : List Byte) (key : Word) : Frame :=
  [Config.som, op, seq] ++ le16 (BitVec.ofNat 16 chunk.length) ++ chunk ++ le32 (kcrc key chunk) ++ [Config.eom]

/-- Encode(op, payload, key) (R151). -/
def encodeCommand (op : Byte) (payload : List Byte) (key : Word) : List Frame :=
  (splitPayload payload).mapIdx fun k chunk => frameBytes op (BitVec.ofNat 8 k) chunk key

/-- One pass of the `repeat` body of R152 up to `TxEndFrame()`, for the chunk of length `len` at `off`. -/
def emitChunk (op seq : Byte) (data : List Byte) (off len : Nat) (key : Word) (p : TxPort) : TxPort :=
  let chunk := (data.drop off).take len
  let p := txEmit (txEmit (txEmit p Config.som) op) seq
  let p := txEmitAll p (le16 (BitVec.ofNat 16 len))
  let p := txEmitAll p chunk
  let p := txEmitAll p (le32 (kcrc key chunk))
  txEndFrame (txEmit p Config.eom)

/-- The `repeat … until off = n` loop of R152. The first argument bounds the passes: `n + 1` are always enough, since every pass but
the last advances `off`. -/
def encLoop (op : Byte) (data : List Byte) (key : Word) : Nat → Nat → Byte → TxPort → TxPort × Byte
  | 0, _, seq, p => (p, seq)
  | fuel + 1, off, seq, p =>
    let len := min (data.length - off) Config.maxChunk
    let p := emitChunk op seq data off len key p
    if off + len = data.length then (p, seq + 1)
    else encLoop op data key fuel (off + len) (seq + 1) p

/-- The count a `respond OK(K(n))` carries: K(n) where a `u32` holds it, else a free value (log entry 10). -/
def frameCountWord (k : Nat) : Word := if k < 2 ^ 32 then BitVec.ofNat 32 k else Config.freeFrameCount k

/-- ENC under a given SEQ_POLICY (R152, R153, R155), in the order of checks of R251. -/
def encUnder (policy : SeqPolicy) (op : Byte) (data : List Byte) (s : State) : State :=
  if s.kexp then raiseError .illegalOp (encode (.enc op data)).cw s
  else if policy = .reject ∧ data.length > Config.maxCmd then
    raiseError .oversizedCommand (BitVec.ofNat 32 (min data.length 0xFFFFFFFF)) s
  else
    let out := encLoop op data (activeKey s) (data.length + 1) 0 0 (txOpen s)
    respondOk (frameCountWord (chunkCount data.length)) { s with tx := out.1.closed, txSeq := out.2 }

/-- ENC (R152), with the policy this hardware takes (R153). -/
def execEnc (op : Byte) (data : List Byte) (s : State) : Result :=
  .next (encUnder Config.seqPolicy op data s)

end Sys2Proof.Machine
end

