-- ==== Sys2Proof/Machine/KeyExchange.lean ====
section
/-! DEFINITION. The key exchange: KEXB, KEXC, KEXA (43_keyexchange R200 to R207). -/

namespace Sys2Proof.Machine

/-- The wire value of a candidate key: the XOR with the constant default key (R201). -/
def wireValue (candidate : Word) : Word := candidate ^^^ Config.keyDefault

/-- `for each frame f of …, in order: emit the bytes of f with TxEmit, then TxEndFrame(); TX_SEQ <- (TX_SEQ + 1) mod 256` (R203). -/
def emitFrames (fs : List Frame) (p : TxPort) (seq : Byte) : TxPort × Byte :=
  fs.foldl (fun q f => (txEndFrame (txEmitAll q.1 f), q.2 + 1)) (p, seq)

/-- KEXB (R203). The key is read, and the frame checksummed, before anything changes the key (R78, R293). -/
def execKexb (key : Word) (s : State) : Result :=
  .next (if s.neg ∨ s.kexp then raiseError .illegalOp (encode (.kexb key)).cw s
    else
      let frames := encodeCommand (Config.opc .setCrcKey) (le32 (wireValue key)) (activeKey s)
      let out := emitFrames frames (txOpen s) 0
      respondOk 1 { s with tx := out.1.closed, txSeq := out.2, pkey := some key, kexp := true })

/-- KEXC (R205). -/
def execKexc (s : State) : Result :=
  .next (if s.kexp then respondOk 0 { activate (keyBits s.pkey) s with pkey := none, kexp := false }
    else raiseError .illegalOp (encode .kexc).cw s)

/-- KEXA (R206). -/
def execKexa (s : State) : Result :=
  .next (if s.kexp then respondOk 0 { s with pkey := none, kexp := false }
    else raiseError .illegalOp (encode .kexa).cw s)

end Sys2Proof.Machine
end

