-- ==== Sys2Proof/Machine/Keyring.lean ====
section
/-! DEFINITION. The keyring's host operation: CSUM (40_keyring R134). -/

namespace Sys2Proof.Machine

/-- CSUM (R134): legal in every state, no side effects. -/
def execCsum (data : List Byte) (s : State) : Result :=
  .next (respondOk (kcrc (activeKey s) data) s)

end Sys2Proof.Machine
end

