-- ==== Sys2Proof/Machine/System.lean ====
section
/-! DEFINITION. The operations that manage the block: SETV, RDST, SRST (44_system_ops R220 to R222), and the hardware reset (R280). -/

namespace Sys2Proof.Machine

/-- SETV (R220). ARG8 above 1 is a malformed transaction: IllegalOp, no state change. -/
def execSetv (arg : Byte) (s : State) : Result :=
  .next (if (Instr.setv arg).wf then respondOk 0 { s with verifyEn := arg.getLsbD 0 }
    else raiseError .illegalOp (encode (.setv arg)).cw s)

/-- RDST (R221): no side effects. -/
def execRdst (s : State) : Result := .next (respondOk (statusWord s) s)

/-- SRST (R222). -/
def execSrst (s : State) : Result := .next (respondOk 0 (resetSession s))

/-- The hardware reset (R280): the effect of SRST, no response and no transaction. -/
def hardwareReset (s : State) : State := resetSession s

end Sys2Proof.Machine
end

