-- ==== Sys2Proof/Machine/Dispatch.lean ====
section
/-! DEFINITION. One arm per host operation (Table H3 of 30_encoding R103). -/

namespace Sys2Proof.Machine

def exec (i : Instr) (s : State) : Host.Outcome State Fault Refusal :=
  match i with
  | .enc op data => Sys2Proof.Machine.execEnc op data s
  | .csum data => Sys2Proof.Machine.execCsum data s
  | .kexb key => Sys2Proof.Machine.execKexb key s
  | .kexc => Sys2Proof.Machine.execKexc s
  | .kexa => Sys2Proof.Machine.execKexa s
  | .rxb b => Sys2Proof.Machine.execRxb b s
  | .rxe => Sys2Proof.Machine.execRxe s
  | .setv arg => Sys2Proof.Machine.execSetv arg s
  | .rdst => Sys2Proof.Machine.execRdst s
  | .srst => Sys2Proof.Machine.execSrst s

end Sys2Proof.Machine
end

