-- ==== Sys2Proof/Machine/Step.lean ====
section
/-! DEFINITION. One step of the block: it takes the oldest input and consumes it whole (20_memory R61, R74). -/

namespace Sys2Proof.Machine

/-- With nothing presented the block holds its state (60_exceptions R266; DEDUCED, log entry 2). A hardware reset resets it. A transaction is
consumed whether its operation succeeds or fails (R61): a legal one runs, an illegal one is answered ERR(IllegalOp, CW) (R104). -/
def step (s : State) : Host.Outcome State Fault Refusal :=
  match s.inputs with
  | [] => .next s
  | .hardwareReset :: rest => .next (hardwareReset { s with inputs := rest })
  | .op t :: rest =>
    match decode t with
    | .ok i => exec i { s with inputs := rest }
    | .error _ => .next (refuseTransaction t { s with inputs := rest })

/-- The transaction with the given bits presented before every other input, so that the next step runs it (DESIGN CHOICE, log entries
1 and 12). -/
def State.withFetchWord (s : State) (nbits w : Nat) : State :=
  { s with inputs := .op (transactionOfBits nbits w) :: s.inputs }

end Sys2Proof.Machine
end

