-- ==== Sys2Proof/Machine/Pseudo.lean ====
section
/-! DEFINITION. The pseudo-operations: what each expands to (30_encoding R111, 43_keyexchange R208, 44_system_ops R225 to R232). They
have no encoding of their own (DEDUCED, log entry 20). -/

namespace Sys2Proof.Machine

/-- The seven printer calls of the source's CommandSession (R225). Where the source gives no payload the host supplies one. -/
inductive PrinterCall where
  | setPaper (t : Byte)
  | getSn (bytes : List Byte)
  | setHeat (d : Byte)
  | getBat (bytes : List Byte)
  | print (bytes : List Byte)
  | feed (n : BitVec 16)
  | testPage (bytes : List Byte)
deriving DecidableEq, Repr

/-- "a pseudo-operation that expands to exactly one ENC with the protocol opcode of that call" (R225 to R232). -/
def expandPrinterCall : PrinterCall → Instr
  | .setPaper t => .enc (Config.opc .setPaperType) [t]
  | .getSn bytes => .enc (Config.opc .getSerialNumber) bytes
  | .setHeat d => .enc (Config.opc .setHeatDensity) [d]
  | .getBat bytes => .enc (Config.opc .getBatteryStatus) bytes
  | .print bytes => .enc (Config.opc .printData) bytes
  | .feed n => .enc (Config.opc .feedLine) (le16 n)
  | .testPage bytes => .enc (Config.opc .printTestPage) bytes

/-- `RX <bytes>` (R111). -/
def expandRx (bytes : List Byte) : List Instr := bytes.map Instr.rxb

/-- `PARSE <bytes>` (R111). -/
def expandParse (bytes : List Byte) : List Instr := expandRx bytes ++ [.rxe]

/-- `NEGOTIATE <key>` (R111, R208): KEXB, the host's transport write of a frame of `frameLen` bytes of which it wrote `written`, then
KEXC after a whole write and KEXA after a short one (R242). -/
def expandNegotiate (key : Word) (frameLen written : Nat) : List Instr :=
  [.kexb key, if written = frameLen then .kexc else .kexa]

end Sys2Proof.Machine
end

