-- ==== Sys2Proof/Safety.lean ====
section
/-! DEFINITION. The terms claims are stated in: runs of operations, the key-exchange phases, the invariants, and when two states
differ in nothing the block may read. -/

namespace Sys2Proof.Machine

/-- The operations of a list, one after the other (20_memory R74). -/
def runOps : List Instr → State → Result
  | [], s => .next s
  | i :: rest, s =>
    match exec i s with
    | .next t => runOps rest t
    | .fault f => .fault f
    | .refused r => .refused r

/-- "Errors: IllegalOp for a malformed transaction", with no state change and no output, as the rule of every operation says: so for each
illegal transaction whose OPN is `opn`. -/
def MalformedIsRefused (opn : Nat) : Prop :=
  ∀ (s : State) (t : Transaction) (rest : List Input),
    (t.cw.extractLsb' 0 4).toNat = opn → t.legal = false → s.inputs = .op t :: rest →
    step s = .next { s with inputs := rest, responses := s.responses ++ [⟨0x06#8, t.cw⟩] }

/-- The states of the key-exchange state machine (43_keyexchange R200). -/
inductive KeyPhase where
  | unkeyed
  | pending
  | keyed
deriving DecidableEq, Repr

/-- The phase of a state; (NEG, KEXP) = (1, 1) is unreachable (10_state R26). -/
def keyPhase (s : State) : KeyPhase :=
  if s.neg then .keyed else if s.kexp then .pending else .unkeyed

/-- Table K1 (R200): the phase after an operation; "every other operation leaves the state where it is". -/
def nextKeyPhase (p : KeyPhase) : Instr → KeyPhase
  | .kexb _ => if p = .unkeyed then .pending else p
  | .kexc => if p = .pending then .keyed else p
  | .kexa => if p = .pending then .unkeyed else p
  | .srst => .unkeyed
  | .enc _ _ | .csum _ | .rxb _ | .rxe | .setv _ | .rdst => p

/-- The keyring invariant: NEG = 1 if and only if SKEY holds a value (R24), KEXP = 1 exactly when PKEY holds one (R25), and never
NEG = KEXP = 1 (R26). -/
abbrev KeyringInv (s : State) : Prop :=
  (s.neg = true ↔ s.skey.isSome = true) ∧ (s.kexp = true ↔ s.pkey.isSome = true) ∧
    ¬ (s.neg = true ∧ s.kexp = true)

/-- The deframer invariant: RX_POS never passes the last byte of the frame (R36), and RX_PAY holds exactly the payload bytes consumed
so far (R38). -/
abbrev DeframerInv (s : State) : Prop :=
  (s.rxPos.toNat < 5 → s.rxPay = []) ∧
    (5 ≤ s.rxPos.toNat → s.rxPos.toNat ≤ 9 + s.rxLen.toNat ∧
      s.rxPay.length = min (s.rxPos.toNat - 5) s.rxLen.toNat)

/-- A frame as the framer produces it: markers 0x02 and 0x03 (R95), a length field that tells its length (R92), a payload of at most
2016 bytes (R93). -/
abbrev FramerFrame (f : Frame) : Prop :=
  f[0]? = some 0x02#8 ∧ f[f.length - 1]? = some 0x03#8 ∧ f.length = 10 + memRead f 3 2 ∧ memRead f 3 2 ≤ 2016

/-- What the output streams hold: whole frames of the framer (R62), whole records (R64). -/
abbrev StreamsInv (s : State) : Prop :=
  (∀ f ∈ s.tx, FramerFrame f) ∧ (∀ r ∈ s.records, r.payload.length = r.length.toNat)

/-- The invariant of the machine. -/
abbrev BlockInv (s : State) : Prop := KeyringInv s ∧ DeframerInv s ∧ StreamsInv s

/-- What one operation or step gives out is appended; nothing is retracted (R62, R64). -/
abbrev StreamsGrow (s t : State) : Prop :=
  s.responses <+: t.responses ∧ s.tx <+: t.tx ∧ s.records <+: t.records

/-- The bytes of a receive buffer that whole records stand for: the sum of `10 + N_i` (42_deframer R178). -/
def consumedBytes (rs : List InboundRecord) : Nat := (rs.map fun r => 10 + r.length.toNat).sum

/-- Equal but for the stale bits of RX_OP, RX_SEQ, RX_LEN and RX_CRC, those the current frame has not written yet (10_state R37,
R39). -/
structure SameUpToStale (s t : State) : Prop where
  inputs : s.inputs = t.inputs
  skey : s.skey = t.skey
  neg : s.neg = t.neg
  pkey : s.pkey = t.pkey
  kexp : s.kexp = t.kexp
  verifyEn : s.verifyEn = t.verifyEn
  txSeq : s.txSeq = t.txSeq
  rxPos : s.rxPos = t.rxPos
  rxPay : s.rxPay = t.rxPay
  responses : s.responses = t.responses
  tx : s.tx = t.tx
  records : s.records = t.records
  rxOp : 1 < s.rxPos.toNat → s.rxOp = t.rxOp
  rxSeq : 2 < s.rxPos.toNat → s.rxSeq = t.rxSeq
  rxLenLow : 3 < s.rxPos.toNat → s.rxLen.extractLsb' 0 8 = t.rxLen.extractLsb' 0 8
  rxLenHigh : 4 < s.rxPos.toNat → s.rxLen.extractLsb' 8 8 = t.rxLen.extractLsb' 8 8
  rxCrc : ∀ j < 4, 4 < s.rxPos.toNat → 5 + s.rxLen.toNat + j < s.rxPos.toNat →
    s.rxCrc.extractLsb' (8 * j) 8 = t.rxCrc.extractLsb' (8 * j) 8

end Sys2Proof.Machine
end

