-- ==== Sys2Proof/Certificates/Slice0/Obligations.lean ====
section
/-! DEFINITION. The statements for the provers, from the numbered rules of spec/. -/

open Sys2Proof Sys2Proof.Machine

/-! ## Encoding (30_encoding) -/

/-- Decode and encode agree: no operand bit of a well-formed operation is lost (Tables H3 and H4). -/
def Obligations.DecodeOfEncodeIsTheOperation : Prop :=
  ∀ i : Instr, i.wf = true → decode (encode i) = .ok i

/-- And the other way: each transaction that decodes is the one transaction of its operation, so no bit of it is ignored. -/
def Obligations.DecodedTransactionIsTheEncodingOfItsOperation : Prop :=
  ∀ (t : Transaction) (i : Instr), decode t = .ok i → i.wf = true ∧ encode i = t

/-- R103: the transactions that decode are those whose CW matches a row of Table H3 and whose shape fits its format. -/
def Obligations.TransactionDecodesExactlyWhenATableRowFits : Prop :=
  ∀ t : Transaction, (∃ i, decode t = .ok i) ↔ t.legal = true

/-- No command word selects two rows of Table H3. -/
def Obligations.NoCommandWordSelectsTwoRows : Prop :=
  ∀ (cw : Word) (r₁ r₂ : OpRow), r₁ ∈ opTable → r₂ ∈ opTable →
    r₁.selectedBy cw = true → r₂.selectedBy cw = true → r₁ = r₂

/-- R104: the clauses that make a transaction illegal, that they are together the complement of Table H3, and what an illegal
transaction does: ERR(IllegalOp, CW), no change of state, no output. -/
def Obligations.IllegalTransactionIsRefusedUnchanged : Prop :=
  ∀ t : Transaction,
    (t.legal = false ↔
      ((t.cw.extractLsb' 0 4).toNat = 0 ∨ 0xB ≤ (t.cw.extractLsb' 0 4).toNat) ∨
      (t.cw.extractLsb' 4 4 ≠ 0 ∨ t.cw.extractLsb' 16 16 ≠ 0) ∨
      ((t.cw.extractLsb' 0 4).toNat ∈ [2, 3, 4, 5, 7, 9, 10] ∧ t.cw.extractLsb' 8 8 ≠ 0) ∨
      ((t.cw.extractLsb' 0 4).toNat = 8 ∧ t.cw.extractLsb' 9 7 ≠ 0) ∨
      ((t.cw.extractLsb' 0 4).toNat ∈ [1, 2] ∧ t.words ≠ []) ∨
      ((t.cw.extractLsb' 0 4).toNat = 3 ∧ ¬ (t.words.length = 1 ∧ t.data = [])) ∨
      ((t.cw.extractLsb' 0 4).toNat ∈ [4, 5, 6, 7, 8, 9, 10] ∧ ¬ (t.words = [] ∧ t.data = []))) ∧
    ((∃ i, decode t = .ok i) ↔ t.legal = true) ∧
    ∀ (s : State) (rest : List Input), t.legal = false → s.inputs = .op t :: rest →
      step s = .next { s with inputs := rest, responses := s.responses ++ [⟨0x06#8, t.cw⟩] }

/-- Words written out from Table H3 and the operations they stand for. -/
def Obligations.SampleWordsDecodeAsTheTableSays : Prop :=
  decode ⟨0x00001901#32, [], [0x64#8]⟩ = .ok (.enc 0x19#8 [0x64#8]) ∧
  decode ⟨0x00000003#32, [0x12345678#32], []⟩ = .ok (.kexb 0x12345678#32) ∧
  decode ⟨0x00000206#32, [], []⟩ = .ok (.rxb 0x02#8) ∧
  decode ⟨0x00000108#32, [], []⟩ = .ok (.setv 1#8) ∧
  decode ⟨0x0000000A#32, [], []⟩ = .ok .srst ∧
  decode ⟨0x00000208#32, [], []⟩ = .error .argument ∧
  decode ⟨0x00000000#32, [], []⟩ = .error .reservedOperation

/-! ## The step (20_memory R61, R74; 70_reset_and_hazards R280) -/

/-- A step takes the oldest transaction, consumes it whole (R61), and runs the operation it decodes to on what is left.
That the inputs are a list in the state is the model's form, log entry 1. -/
def Obligations.StepRunsTheDecodedOperation : Prop :=
  ∀ (s : State) (t : Transaction) (rest : List Input) (i : Instr),
    s.inputs = .op t :: rest → decode t = .ok i → step s = exec i { s with inputs := rest }

/-- With no operation presented the block holds its state. That this is a step at all is the model's choice, log entry 2. -/
def Obligations.StepWithoutAnInputHoldsTheState : Prop :=
  ∀ s : State, s.inputs = [] → step s = .next s

/-- The hardware reset has the effect of SRST; it gives no response and consumes no transaction, SRST answers OK. That the hardware reset
keeps the bits of RX_OP, RX_SEQ, RX_LEN and RX_CRC as SRST does is the model's reading of R280, log entry 5. -/
def Obligations.HardwareResetHasTheEffectOfSrstWithoutAResponse : Prop :=
  ∀ (s : State) (rest : List Input), s.inputs = .hardwareReset :: rest →
    ∃ t, step s = .next t ∧ t.responses = s.responses ∧ t.inputs = rest ∧
      exec .srst { s with inputs := rest } = .next { t with responses := s.responses ++ [⟨0#8, 0#32⟩] }

/-- R46: what a hardware reset and SRST leave, and the state a machine starts in, in every item the rule gives a value. -/
def Obligations.EachResetLeavesTheResetValues : Prop :=
  ∀ (s : State) (rest : List Input), s.inputs = .hardwareReset :: rest →
    ∃ h t, step s = .next h ∧ exec .srst s = .next t ∧
      ∀ u ∈ [h, t, State.reset],
        u.skey = none ∧ u.neg = false ∧ u.pkey = none ∧ u.kexp = false ∧ u.verifyEn = false ∧ u.txSeq = 0#8 ∧
        u.rxPos = 0#17 ∧ u.rxPay = [] ∧ Config.keyDefault = 0x35769521#32 ∧ activeKey u = Config.keyDefault

/-! ## The keyring (40_keyring) -/

/-- R130: the active key is SKEY once negotiated, KEY_DEFAULT = 0x35769521 before. -/
def Obligations.ActiveKeyIsSessionKeyOnceNegotiated : Prop :=
  ∀ s : State, (s.neg = false → activeKey s = 0x35769521#32) ∧
    ∀ k, s.neg = true → s.skey = some k → activeKey s = k

/-- R132 (b) and (d): the checksum of no bytes is the key; the checksum of a concatenation continues from that of its first part. -/
def Obligations.KeyedChecksumOfEmptyIsKeyAndChains : Prop :=
  (∀ key : Word, kcrc key [] = key) ∧
    ∀ (key : Word) (a b : List Byte), kcrc key (a ++ b) = kcrc (kcrc key a) b

/-- R132 (c): for fixed bytes, different keys give different checksums, of the KCRC that R131 decides (log entry 7). -/
def Obligations.DifferentKeysGiveDifferentChecksums : Prop :=
  ∀ (k₁ k₂ : Word) (data : List Byte), kcrc k₁ data = kcrc k₂ data → k₁ = k₂

/-- R134: CSUM answers the keyed checksum of its data under the active key and changes nothing else; for no data that is the active
key itself; committing a key changes the answer unless it equals the default key, and then it does not. -/
def Obligations.CsumAnswersKeyedChecksumAndChangesNothing : Prop :=
  ∀ (s : State) (data : List Byte),
    decode ⟨0x00000002#32, [], data⟩ = .ok (.csum data) ∧
    exec (.csum data) s =
      .next { s with responses := s.responses ++ [⟨0#8, kcrc (activeKey s) data⟩] } ∧
    exec (.csum []) s = .next { s with responses := s.responses ++ [⟨0#8, activeKey s⟩] } ∧
    MalformedIsRefused 2 ∧
    ∀ k : Word, s.neg = false → s.kexp = true → s.pkey = some k →
      ∃ t, exec .kexc s = .next t ∧
        (kcrc (activeKey t) data = kcrc (activeKey s) data ↔ k = 0x35769521#32)

/-! ## The framer (41_framer) -/

/-- R150: the chunks concatenated in order are the payload; there are K(n) of them; every chunk but the last has exactly 2016 bytes
and the last has what is left, at most 2016. -/
def Obligations.SplitCutsThePayloadIntoFullChunksAndARest : Prop :=
  ∀ payload : List Byte,
    (splitPayload payload).flatten = payload ∧
    (splitPayload payload).length = max 1 ((payload.length + 2015) / 2016) ∧
    (payload = [] → splitPayload payload = [[]]) ∧
    ∀ (k : Nat) (c : List Byte), (splitPayload payload)[k]? = some c →
      (k + 1 < (splitPayload payload).length → c.length = 2016) ∧
      (k + 1 = (splitPayload payload).length →
        c.length + k * 2016 = payload.length ∧ c.length ≤ 2016 ∧ (payload ≠ [] → 1 ≤ c.length))

/-- R151, R95: the byte at every offset of a frame that Frame gives, the markers 0x02 and 0x03 included; and Encode as the frames of the
chunks, frame k with sequence index k mod 256. -/
def Obligations.FrameAndEncodeHaveTheirLayout : Prop :=
  (∀ (op seq : Byte) (chunk : List Byte) (key : Word), chunk.length ≤ 65535 →
    (frameBytes op seq chunk key).length = 10 + chunk.length ∧
    (frameBytes op seq chunk key)[0]? = some 0x02#8 ∧
    (frameBytes op seq chunk key)[1]? = some op ∧
    (frameBytes op seq chunk key)[2]? = some seq ∧
    (frameBytes op seq chunk key)[3]? = some (BitVec.ofNat 8 (chunk.length % 256)) ∧
    (frameBytes op seq chunk key)[4]? = some (BitVec.ofNat 8 (chunk.length / 256)) ∧
    ((frameBytes op seq chunk key).drop 5).take chunk.length = chunk ∧
    (∀ j < 4, (frameBytes op seq chunk key)[chunk.length + 5 + j]? =
      some ((kcrc key chunk).extractLsb' (8 * j) 8)) ∧
    (frameBytes op seq chunk key)[chunk.length + 9]? = some 0x03#8) ∧
  ∀ (op : Byte) (payload : List Byte) (key : Word),
    (encodeCommand op payload key).length = (splitPayload payload).length ∧
    ∀ (k : Nat) (c : List Byte), (splitPayload payload)[k]? = some c →
      (encodeCommand op payload key)[k]? = some (frameBytes op (BitVec.ofNat 8 (k % 256)) c key)

/-- R152, R155: for a payload within MAX_CMD ENC appends exactly Encode(op, data, ActiveKey()) to the TX stream, leaves TX_SEQ at
K(n) mod 256, answers OK(K(n)) and changes nothing else. With a key exchange pending it is refused with IllegalOp whatever the length;
otherwise a longer payload is refused with OversizedCommand; both unchanged. -/
def Obligations.EncAppendsExactlyTheEncodedFrames : Prop :=
  ∀ (s : State) (op : Byte) (data : List Byte),
    decode ⟨0x00000001#32 ||| (op.setWidth 32 <<< 8), [], data⟩ = .ok (.enc op data) ∧
    MalformedIsRefused 1 ∧
    (s.kexp = false → data.length ≤ 516096 →
      exec (.enc op data) s = .next { s with
        tx := s.tx ++ encodeCommand op data (activeKey s)
        txSeq := BitVec.ofNat 8 (max 1 ((data.length + 2015) / 2016))
        responses := s.responses ++ [⟨0#8, BitVec.ofNat 32 (max 1 ((data.length + 2015) / 2016))⟩] }) ∧
    (s.kexp = true → exec (.enc op data) s = .next { s with
      responses := s.responses ++ [⟨0x06#8, 0x00000001#32 ||| (op.setWidth 32 <<< 8)⟩] }) ∧
    (s.kexp = false → 516096 < data.length → exec (.enc op data) s = .next { s with
      responses := s.responses ++ [⟨0x04#8, BitVec.ofNat 32 (min data.length 0xFFFFFFFF)⟩] })

/-- From R153, the policy this hardware does not take (log entry 8): under WRAP a payload of any length is framed, frame k carrying k mod 256. The
premise keeps the count within a `u32`; beyond it the answer is a free value (log entry 10). -/
def Obligations.WrapPolicyFramesEveryLength : Prop :=
  ∀ (s : State) (op : Byte) (data : List Byte), s.kexp = false →
    ∃ v : Word, encUnder .wrap op data s = { s with
        tx := s.tx ++ encodeCommand op data (activeKey s)
        txSeq := BitVec.ofNat 8 (max 1 ((data.length + 2015) / 2016))
        responses := s.responses ++ [⟨0#8, v⟩] } ∧
      (max 1 ((data.length + 2015) / 2016) < 2 ^ 32 →
        v = BitVec.ofNat 32 (max 1 ((data.length + 2015) / 2016))) ∧
      ∀ (k : Nat) (f : Frame), (encodeCommand op data (activeKey s))[k]? = some f →
        f[2]? = some (BitVec.ofNat 8 (k % 256))

/-- R245: OversizedCommand is raised by ENC only, exactly when nothing is pending and the payload is longer than 516096 bytes, with the
length, saturated, as its info word and nothing changed; under WRAP nothing raises it. -/
def Obligations.OversizedCommandRaisedExactlyByLongEnc : Prop :=
  (∀ (i : Instr) (s t : State) (v : Word), exec i s = .next t →
    (t.responses = s.responses ++ [⟨0x04#8, v⟩] ↔
      ∃ op data, i = .enc op data ∧ s.kexp = false ∧ 516096 < data.length ∧
        v = BitVec.ofNat 32 (min data.length 0xFFFFFFFF))) ∧
  (∀ (op : Byte) (data : List Byte) (s t : State), s.kexp = false → 516096 < data.length →
    exec (.enc op data) s = .next t → t = { s with responses := t.responses }) ∧
  ∀ (op : Byte) (data : List Byte) (s : State) (v : Word),
    (encUnder .wrap op data s).responses ≠ s.responses ++ [⟨0x04#8, v⟩]

/-- R156: the total of the bytes of the frames of one command, and the frame counts at the boundaries the rule lists. -/
def Obligations.EncodedLengthIsPayloadPlusTenPerFrame : Prop :=
  (∀ (op : Byte) (payload : List Byte) (key : Word),
    (encodeCommand op payload key).flatten.length =
      payload.length + 10 * (encodeCommand op payload key).length) ∧
  (∀ (op : Byte) (payload : List Byte) (key : Word) (n k : Nat), payload.length = n →
    (n, k) ∈ [(0, 1), (1, 1), (2016, 1), (2017, 2), (4032, 2), (4033, 3), (4096, 3), (516096, 256)] →
    (encodeCommand op payload key).length = k)

/-- R158: DecodeOne at the start of frame k of an encoded command gives back its opcode, k mod 256, its length, its chunk, its
checksum, and the frame's length. -/
def Obligations.DecodeOneRecoversEveryEncodedFrame : Prop :=
  ∀ (op : Byte) (payload : List Byte) (key : Word) (k : Nat) (c : List Byte),
    (splitPayload payload)[k]? = some c →
    decodeOne (encodeCommand op payload key).flatten
        ((encodeCommand op payload key).take k).flatten.length =
      .ok (⟨op, BitVec.ofNat 8 (k % 256), BitVec.ofNat 16 c.length, c, kcrc key c⟩, 10 + c.length)

/-- R158 with R172: parsing the frames of an encoded command gives one record per frame and nothing left over, and the payloads in
order are the payload. -/
def Obligations.ParseOfEncodeRecoversThePayload : Prop :=
  ∀ (op : Byte) (payload : List Byte) (key : Word),
    let out := parseBuffer (encodeCommand op payload key).flatten
    out.2 = none ∧
    (out.1.map (·.payload)).flatten = payload ∧
    out.1.map (·.seq) = (List.range (encodeCommand op payload key).length).map (BitVec.ofNat 8) ∧
    ∀ r ∈ out.1, r.opcode = op ∧ r.length = BitVec.ofNat 16 r.payload.length ∧
      r.checksum = kcrc key r.payload

/-- R154, R299: an ENC issued again gives the same frames again. -/
def Obligations.ReissuedEncGivesTheSameFrames : Prop :=
  ∀ (s : State) (op : Byte) (data : List Byte), s.kexp = false → data.length ≤ 516096 →
    ∃ t u, exec (.enc op data) s = .next t ∧ exec (.enc op data) t = .next u ∧
      ∃ fs, fs ≠ [] ∧ t.tx = s.tx ++ fs ∧ u.tx = t.tx ++ fs ∧ u.txSeq = t.txSeq

/-! ## The deframer (42_deframer) -/

/-- R171: DecodeOne fails exactly when the header or the declared length is not all there, and otherwise consumes 10 + N bytes inside
the buffer; what follows the frame is not read. -/
def Obligations.DecodeOneFailsExactlyOnTruncation : Prop :=
  ∀ (buf : List Byte) (off : Nat), off ≤ buf.length →
    ((∃ e, decodeOne buf off = .error e) ↔
      (buf.length - off < 5 ∨
        ∃ lo hi, buf[off + 3]? = some lo ∧ buf[off + 4]? = some hi ∧
          buf.length - off < 10 + (lo.toNat + 256 * hi.toNat))) ∧
    (∀ e, decodeOne buf off = .error e → e = .truncationError) ∧
    ∀ (r : InboundRecord) (used : Nat), decodeOne buf off = .ok (r, used) →
      used = 10 + r.length.toNat ∧ off + used ≤ buf.length ∧
      buf[off + 1]? = some r.opcode ∧ buf[off + 2]? = some r.seq ∧
      buf[off + 3]? = some (r.length.extractLsb' 0 8) ∧ buf[off + 4]? = some (r.length.extractLsb' 8 8) ∧
      r.payload = (buf.drop (off + 5)).take r.length.toNat ∧ r.payload.length = r.length.toNat ∧
      (∀ j < 4, buf[off + 5 + r.length.toNat + j]? = some (r.checksum.extractLsb' (8 * j) 8)) ∧
      ∀ extra, decodeOne (buf ++ extra) off = .ok (r, used)

/-- R96: the values of the start and end marker do not matter, to DecodeOne or to RXB. -/
def Obligations.MarkerValuesAreIgnored : Prop :=
  (∀ (buf : List Byte) (off : Nat) (r : InboundRecord) (used : Nat) (m₁ m₂ : Byte),
    off ≤ buf.length → decodeOne buf off = .ok (r, used) →
    decodeOne ((buf.set off m₁).set (off + used - 1) m₂) off = .ok (r, used)) ∧
  ∀ (s : State) (b₁ b₂ : Byte),
    (s.rxPos.toNat = 0 ∨ 5 ≤ s.rxPos.toNat ∧ s.rxPos.toNat = 9 + s.rxLen.toNat) →
    exec (.rxb b₁) s = exec (.rxb b₂) s

/-- R172: Parse of the empty buffer is empty and no error; of a buffer that begins with a whole frame it is that frame's record and then
Parse of the rest; of any other buffer it is no record and TruncationError. So its records account for a prefix of the buffer, the whole
of it exactly when there is no error. -/
def Obligations.ParseAccountsForTheBuffer : Prop :=
  (∀ buf : List Byte,
    consumedBytes (parseBuffer buf).1 ≤ buf.length ∧
    ((parseBuffer buf).2 = none ↔ consumedBytes (parseBuffer buf).1 = buf.length) ∧
    ((parseBuffer buf).2 = none ∨ (parseBuffer buf).2 = some .truncationError)) ∧
  parseBuffer [] = ([], none) ∧
  (∀ (buf : List Byte) (e : ErrorKind), buf ≠ [] → decodeOne buf 0 = .error e →
    parseBuffer buf = ([], some .truncationError)) ∧
  ∀ (buf : List Byte) (r : InboundRecord) (used : Nat), decodeOne buf 0 = .ok (r, used) →
    parseBuffer buf = (r :: (parseBuffer (buf.drop used)).1, (parseBuffer (buf.drop used)).2)

/-- R174, Table X1 of R175: a byte that does not complete a frame is stored where its position says and nowhere else, RX_POS advances
by one, and the answer is OK(0). -/
def Obligations.RxbStoresTheByteWhereItsPositionSays : Prop :=
  ∀ (s : State) (b : Byte), (s.rxPos.toNat < 5 ∨ s.rxPos.toNat < 9 + s.rxLen.toNat) →
    exec (.rxb b) s = .next { s with
      rxPos := BitVec.ofNat 17 (s.rxPos.toNat + 1)
      rxOp := if s.rxPos.toNat = 1 then b else s.rxOp
      rxSeq := if s.rxPos.toNat = 2 then b else s.rxSeq
      rxLen := if s.rxPos.toNat = 3 then s.rxLen.extractLsb' 8 8 ++ b
        else if s.rxPos.toNat = 4 then b ++ s.rxLen.extractLsb' 0 8 else s.rxLen
      rxPay := if 5 ≤ s.rxPos.toNat ∧ s.rxPos.toNat < 5 + s.rxLen.toNat then s.rxPay ++ [b] else s.rxPay
      rxCrc := if s.rxPos.toNat < 5 then s.rxCrc
        else if s.rxPos.toNat = 5 + s.rxLen.toNat then s.rxCrc.extractLsb' 8 24 ++ b
        else if s.rxPos.toNat = 6 + s.rxLen.toNat then s.rxCrc.extractLsb' 16 16 ++ b ++ s.rxCrc.extractLsb' 0 8
        else if s.rxPos.toNat = 7 + s.rxLen.toNat then s.rxCrc.extractLsb' 24 8 ++ b ++ s.rxCrc.extractLsb' 0 16
        else if s.rxPos.toNat = 8 + s.rxLen.toNat then b ++ s.rxCrc.extractLsb' 0 24
        else s.rxCrc
      responses := s.responses ++ [⟨0#8, 0#32⟩] }

/-- R180, R181: the byte that completes a frame delivers its record whatever the verdict, with the key and the switch as they are at
that byte; a mismatch answers the checksum the block computed and does not stop the deframer. -/
def Obligations.RxbDeliversTheCompletedRecordWithItsVerdict : Prop :=
  ∀ (s : State) (b : Byte), 5 ≤ s.rxPos.toNat → s.rxPos.toNat = 9 + s.rxLen.toNat →
    ∃ (st : CrcStatus) (resp : Response),
      exec (.rxb b) s = .next { s with
        rxPos := 0
        rxPay := []
        records := s.records ++ [⟨⟨s.rxOp, s.rxSeq, s.rxLen, s.rxPay, s.rxCrc⟩, st⟩]
        responses := s.responses ++ [resp] } ∧
      (s.verifyEn = false → st = .notChecked ∧ resp = ⟨0#8, 1#32⟩) ∧
      (s.verifyEn = true → kcrc (activeKey s) s.rxPay = s.rxCrc → st = .ok ∧ resp = ⟨0#8, 1#32⟩) ∧
      (s.verifyEn = true → kcrc (activeKey s) s.rxPay ≠ s.rxCrc →
        st = .mismatch ∧ resp = ⟨0x05#8, kcrc (activeKey s) s.rxPay⟩)

/-- R176: RXE returns the deframer to a frame boundary, reports an incomplete frame with the number of its bytes, delivers nothing, and
at a frame boundary answers OK and changes nothing. -/
def Obligations.RxeReportsAnIncompleteFrame : Prop :=
  decode ⟨0x00000007#32, [], []⟩ = .ok .rxe ∧ MalformedIsRefused 7 ∧
  ∀ s : State,
    (s.rxPos ≠ 0 → exec .rxe s = .next { s with
      rxPos := 0, rxPay := [], responses := s.responses ++ [⟨0x03#8, BitVec.ofNat 32 s.rxPos.toNat⟩] }) ∧
    (s.rxPos = 0 → exec .rxe s = .next { s with
      rxPay := [], responses := s.responses ++ [⟨0#8, 0#32⟩] }) ∧
    (DeframerInv s → s.rxPos = 0 → exec .rxe s = .next { s with responses := s.responses ++ [⟨0#8, 0#32⟩] }) ∧
    (DeframerInv s → s.rxPos.toNat ≤ 65544)

/-- R178 (1), (3), (4): from a frame boundary, giving a buffer byte by byte and ending it delivers exactly the records of Parse and
reports truncation exactly when Parse does, with the number of bytes left over. -/
def Obligations.ByteSerialDeframerAgreesWithParse : Prop :=
  ∀ (s : State) (buf : List Byte), s.rxPos = 0 → s.rxPay = [] →
    ∃ (t u : State) (new : List Record),
      runOps (expandRx buf) s = .next t ∧ exec .rxe t = .next u ∧
      runOps (expandParse buf) s = .next u ∧
      u.records = s.records ++ new ∧ t.records = u.records ∧
      new.map (·.toInboundRecord) = (parseBuffer buf).1 ∧
      t.rxPos.toNat = buf.length - consumedBytes (parseBuffer buf).1 ∧
      ((parseBuffer buf).2 = none → u.responses = t.responses ++ [⟨0#8, 0#32⟩]) ∧
      (∀ e, (parseBuffer buf).2 = some e →
        u.responses = t.responses ++
          [⟨0x03#8, BitVec.ofNat 32 (buf.length - consumedBytes (parseBuffer buf).1)⟩]) ∧
      u.rxPos = 0 ∧ u.rxPay = []

/-- R178 (2): after any prefix of a buffer, the records delivered are those of Parse whose last byte lies in the prefix. -/
def Obligations.EachRecordIsDeliveredByItsLastByte : Prop :=
  ∀ (s : State) (buf : List Byte) (k : Nat), s.rxPos = 0 → s.rxPay = [] → k ≤ buf.length →
    ∃ (t : State) (new : List Record) (m : Nat),
      runOps (expandRx (buf.take k)) s = .next t ∧ t.records = s.records ++ new ∧
      new.map (·.toInboundRecord) = (parseBuffer buf).1.take m ∧ m ≤ (parseBuffer buf).1.length ∧
      consumedBytes ((parseBuffer buf).1.take m) ≤ k ∧
      (m < (parseBuffer buf).1.length → k < consumedBytes ((parseBuffer buf).1.take (m + 1)))

/-- Loop-back, from R158 and R178: the frames of an ENC, given back byte by byte with verification on, are all delivered with verdict
OK and their payloads in order are the data. -/
def Obligations.LoopedBackFramesVerify : Prop :=
  ∀ (s : State) (op : Byte) (data : List Byte),
    s.kexp = false → s.rxPos = 0 → s.rxPay = [] → s.verifyEn = true → data.length ≤ 516096 →
    ∃ (t u : State) (new : List Record),
      exec (.enc op data) s = .next t ∧
      runOps (expandRx (t.tx.drop s.tx.length).flatten) t = .next u ∧
      u.records = s.records ++ new ∧ u.rxPos = 0 ∧
      (new.map (·.payload)).flatten = data ∧
      ∀ r ∈ new, r.crcStatus = .ok ∧ r.opcode = op

/-! ## The key exchange (43_keyexchange) -/

/-- R203, R201, R293: KEXB in Unkeyed appends the one SetCrcKey frame, checksummed under KEY_DEFAULT, whose payload is the candidate XOR
KEY_DEFAULT; it latches the candidate and changes neither NEG nor SKEY. In Pending and in Keyed it is refused unchanged. -/
def Obligations.KexbFramesTheWireValueUnderTheDefaultKey : Prop :=
  ∀ (s : State) (k : Word),
    decode ⟨0x00000003#32, [k], []⟩ = .ok (.kexb k) ∧ MalformedIsRefused 3 ∧
    (s.neg = false → s.kexp = false →
      exec (.kexb k) s = .next { s with
        tx := s.tx ++
          [[0x02#8, Config.opc .setCrcKey, 0x00#8, 0x04#8, 0x00#8] ++ le32 (k ^^^ 0x35769521#32) ++
            le32 (kcrc 0x35769521#32 (le32 (k ^^^ 0x35769521#32))) ++ [0x03#8]]
        txSeq := 1, pkey := some k, kexp := true
        responses := s.responses ++ [⟨0#8, 1#32⟩] }) ∧
    (s.neg = true ∨ s.kexp = true →
      exec (.kexb k) s = .next { s with responses := s.responses ++ [⟨0x06#8, 0x00000003#32⟩] })

/-- R205: KEXC in Pending makes the candidate the session key and sets NEG, so that it is the active key at once; with nothing
pending it is refused unchanged. -/
def Obligations.KexcActivatesTheCandidate : Prop :=
  decode ⟨0x00000004#32, [], []⟩ = .ok .kexc ∧ MalformedIsRefused 4 ∧
  ∀ s : State,
    (∀ k, s.kexp = true → s.pkey = some k → ∃ t, exec .kexc s = .next t ∧ activeKey t = k ∧
      t = { s with
        skey := some k, neg := true, pkey := none, kexp := false
        responses := s.responses ++ [⟨0#8, 0#32⟩] }) ∧
    (s.kexp = false →
      exec .kexc s = .next { s with responses := s.responses ++ [⟨0x06#8, 0x00000004#32⟩] })

/-- R206: KEXA in Pending drops the candidate and nothing else, so the block is Unkeyed and the active key still KEY_DEFAULT; with nothing
pending it is refused unchanged. -/
def Obligations.KexaDropsTheCandidate : Prop :=
  decode ⟨0x00000005#32, [], []⟩ = .ok .kexa ∧ MalformedIsRefused 5 ∧
  ∀ s : State,
    (s.kexp = true →
      exec .kexa s = .next { s with
        pkey := none, kexp := false, responses := s.responses ++ [⟨0#8, 0#32⟩] }) ∧
    (s.kexp = false →
      exec .kexa s = .next { s with responses := s.responses ++ [⟨0x06#8, 0x00000005#32⟩] }) ∧
    (KeyringInv s → s.kexp = true →
      ∃ t, exec .kexa s = .next t ∧ keyPhase t = .unkeyed ∧ activeKey t = 0x35769521#32)

/-- R200, Table K1: the transitions of the key-exchange state machine under every operation; outside Keyed every checksum uses the
default key. -/
def Obligations.KeyPhaseMovesAsTheTableSays : Prop :=
  (∀ (i : Instr) (s t : State), KeyringInv s → exec i s = .next t →
    keyPhase t = nextKeyPhase (keyPhase s) i) ∧
  ∀ s : State, keyPhase s ≠ .keyed → activeKey s = 0x35769521#32

/-- R208, R206: a handshake whose send failed leaves the block as it was but for the frame emitted, TX_SEQ and the responses; retrying
it emits the same frame. -/
def Obligations.AbortedExchangeLeavesTheKeyringUntouched : Prop :=
  ∀ (s : State) (k : Word) (len written : Nat), KeyringInv s → keyPhase s = .unkeyed → written ≠ len →
    ∃ (t u : State) (f : Frame), runOps (expandNegotiate k len written) s = .next t ∧
      t = { s with tx := s.tx ++ [f], txSeq := 1, responses := s.responses ++ [⟨0#8, 1#32⟩, ⟨0#8, 0#32⟩] } ∧
      exec (.kexb k) t = .next u ∧ u.tx = t.tx ++ [f]

/-- R209: the frame of KEXB is checksummed with the default key whatever the candidate; after the KEXC that follows, through any run of
operations without SRST, each ENC frames under the candidate; and that differs from the default key's checksum whenever the keys differ. -/
def Obligations.KeyExchangeOrderingLaw : Prop :=
  (∀ (s : State) (k : Word) (ops : List Instr) (op : Byte) (data : List Byte),
    s.neg = false → s.kexp = false → (∀ i ∈ ops, i ≠ .srst) → data.length ≤ 516096 →
    ∃ s₁ s₂ s₃ s₄,
      exec (.kexb k) s = .next s₁ ∧
      s₁.tx = s.tx ++ [frameBytes (Config.opc .setCrcKey) 0 (le32 (k ^^^ 0x35769521#32)) 0x35769521#32] ∧
      exec .kexc s₁ = .next s₂ ∧ runOps ops s₂ = .next s₃ ∧
      exec (.enc op data) s₃ = .next s₄ ∧ s₄.tx = s₃.tx ++ encodeCommand op data k) ∧
  ∀ (k : Word) (chunk : List Byte), k ≠ 0x35769521#32 → kcrc k chunk ≠ kcrc 0x35769521#32 chunk

/-- R23: NEG goes from 0 to 1 only by a KEXC that has a candidate, and from 1 to 0 only by a reset; with the keyring invariant SKEY stays
too. So a keyed session stays keyed under its key through every run of operations without SRST, and such a run always completes. -/
def Obligations.KeyedIsTerminalForTheSession : Prop :=
  (∀ (i : Instr) (s t : State), exec i s = .next t →
    (s.neg = true → (t.neg = false ↔ i = .srst)) ∧
    (s.neg = false → (t.neg = true ↔ i = .kexc ∧ s.kexp = true))) ∧
  ∀ (ops : List Instr) (s : State), KeyringInv s → s.neg = true → (∀ i ∈ ops, i ≠ .srst) →
    ∃ t, runOps ops s = .next t ∧ t.neg = true ∧ t.skey = s.skey ∧ activeKey t = activeKey s

/-! ## The system operations (44_system_ops) -/

/-- R220: SETV writes VERIFY_EN from ARG8 bit 0 and nothing else; a transaction with ARG8 above 1 does not decode, and is refused
unchanged. -/
def Obligations.SetvWritesTheVerificationSwitch : Prop :=
  MalformedIsRefused 8 ∧
  (∀ en : Bool, decode ⟨if en then 0x00000108#32 else 0x00000008#32, [], []⟩ = .ok (.setv (if en then 1 else 0))) ∧
  (∀ (s : State) (en : Bool), exec (.setv (if en then 1 else 0)) s = .next { s with
    verifyEn := en, responses := s.responses ++ [⟨0#8, 0#32⟩] }) ∧
  ∀ arg : Byte, 1 < arg.toNat → ∃ e, decode ⟨0x00000008#32 ||| (arg.setWidth 32 <<< 8), [], []⟩ = .error e

/-- R221: RDST answers the STATUS word, laid out as Table S2, and changes nothing else; the reserved bits read as 0. -/
def Obligations.RdstAnswersTheStatusLayout : Prop :=
  decode ⟨0x00000009#32, [], []⟩ = .ok .rdst ∧ MalformedIsRefused 9 ∧
  ∀ s : State, ∃ v : Word,
    exec .rdst s = .next { s with responses := s.responses ++ [⟨0#8, v⟩] } ∧
    v.getLsbD 0 = s.neg ∧ v.getLsbD 1 = s.kexp ∧ v.getLsbD 2 = s.verifyEn ∧
    (v.getLsbD 3 = true ↔ s.rxPos ≠ 0) ∧ v.extractLsb' 4 4 = 0 ∧ v.extractLsb' 8 8 = s.txSeq ∧
    v.extractLsb' 16 16 = 0 ∧ (v = 0#32 ↔
      s.neg = false ∧ s.kexp = false ∧ s.verifyEn = false ∧ s.rxPos = 0 ∧ s.txSeq = 0)

/-- R222: SRST puts every register the rule names to its reset value, leaves RX_OP, RX_SEQ, RX_LEN and RX_CRC, retracts nothing,
reports no truncation, and answers OK. -/
def Obligations.SrstRestoresTheResetState : Prop :=
  decode ⟨0x0000000A#32, [], []⟩ = .ok .srst ∧ MalformedIsRefused 10 ∧
  ∀ s : State,
    exec .srst s = .next { State.reset with
      inputs := s.inputs, tx := s.tx, records := s.records
      rxOp := s.rxOp, rxSeq := s.rxSeq, rxLen := s.rxLen, rxCrc := s.rxCrc
      responses := s.responses ++ [⟨0#8, 0#32⟩] } ∧
    ∃ t, exec .srst s = .next t ∧ activeKey t = 0x35769521#32 ∧ keyPhase t = .unkeyed ∧ statusWord t = 0#32

/-- R70: SETV with one operand twice equals once, SRST twice equals once, but for the responses. -/
def Obligations.SetvAndSrstAreIdempotent : Prop :=
  ∀ (s : State) (i : Instr), (i = .srst ∨ ∃ arg : Byte, i = .setv arg ∧ arg.toNat ≤ 1) →
    ∃ (t : State) (r : Response), exec i s = .next t ∧
      exec i t = .next { t with responses := t.responses ++ [r] }

/-- R226, R228, R231: the printer calls whose payload the source gives, as the one frame each emits. -/
def Obligations.PrinterCallsEmitOneFrame : Prop :=
  ∀ (s : State), s.kexp = false →
    (∀ (b : Byte) (c : PrinterCall) (n : OpcodeName),
      (c = .setPaper b ∧ n = .setPaperType) ∨ (c = .setHeat b ∧ n = .setHeatDensity) →
      expandPrinterCall c = .enc (Config.opc n) [b] ∧
      ∃ (t : State) (f : Frame), exec (expandPrinterCall c) s = .next t ∧ t.tx = s.tx ++ [f] ∧ f.length = 11 ∧
        f = [0x02#8, Config.opc n, 0x00#8, 0x01#8, 0x00#8, b] ++ le32 (kcrc (activeKey s) [b]) ++ [0x03#8]) ∧
    ∀ n : BitVec 16, expandPrinterCall (.feed n) = .enc (Config.opc .feedLine) (le16 n) ∧ ∃ (t : State) (f : Frame),
      exec (expandPrinterCall (.feed n)) s = .next t ∧ t.tx = s.tx ++ [f] ∧ f.length = 12 ∧
        f = [0x02#8, Config.opc .feedLine, 0x00#8, 0x02#8, 0x00#8, n.extractLsb' 0 8, n.extractLsb' 8 8] ++
          le32 (kcrc (activeKey s) [n.extractLsb' 0 8, n.extractLsb' 8 8]) ++ [0x03#8]

/-- R97: the eight protocol opcodes are pairwise distinct, whatever their values (they are open: log entry 6). -/
def Obligations.ProtocolOpcodesAreDistinct : Prop :=
  ∀ a b : OpcodeName, Config.opc a = Config.opc b → a = b

/-! ## Errors (60_exceptions) -/

/-- R101, R240, R251: every operation, in every state, completes with exactly one response appended; it is OK or one of the four errors
the block raises, each exactly in the case its rule gives. -/
def Obligations.EveryOperationAnswersOnceWithTheErrorItsRuleGives : Prop :=
  ∀ (i : Instr) (s : State), ∃ (t : State) (r : Response),
    exec i s = .next t ∧ t.responses = s.responses ++ [r] ∧ t.inputs = s.inputs ∧
    r.code ∈ [0x00#8, 0x03#8, 0x04#8, 0x05#8, 0x06#8] ∧
    (r.code = 0x03#8 ↔ i = .rxe ∧ s.rxPos ≠ 0) ∧
    (r.code = 0x04#8 ↔ ∃ op data, i = .enc op data ∧ s.kexp = false ∧ 516096 < data.length) ∧
    (r.code = 0x05#8 ↔ (∃ b, i = .rxb b) ∧ 5 ≤ s.rxPos.toNat ∧ s.rxPos.toNat = 9 + s.rxLen.toNat ∧
      s.verifyEn = true ∧ kcrc (activeKey s) s.rxPay ≠ s.rxCrc) ∧
    (r.code = 0x06#8 ↔ ((∃ op data, i = .enc op data) ∧ s.kexp = true) ∨
      ((∃ k, i = .kexb k) ∧ (s.neg = true ∨ s.kexp = true)) ∨
      ((i = .kexc ∨ i = .kexa) ∧ s.kexp = false) ∨ ∃ arg : Byte, i = .setv arg ∧ 1 < arg.toNat) ∧
    (r.code = 0x06#8 → r.value = (encode i).cw)

/-- R252, the last column of Table E1: after IllegalOp or OversizedCommand nothing has changed; after TruncationError and
ChecksumMismatch the deframer stands at a frame boundary, and only what the table names has changed. -/
def Obligations.FailedOperationLeavesWhatTheTableSays : Prop :=
  ∀ (i : Instr) (s t : State) (r : Response), exec i s = .next t → t.responses = s.responses ++ [r] →
    (r.code = 0x06#8 ∨ r.code = 0x04#8 → t = { s with responses := s.responses ++ [r] }) ∧
    (r.code = 0x03#8 → t = { s with rxPos := 0, rxPay := [], responses := s.responses ++ [r] } ∧
      r.value.toNat = s.rxPos.toNat) ∧
    (r.code = 0x05#8 → ∃ rec : Record, rec.crcStatus = .mismatch ∧ t = { s with
      rxPos := 0, rxPay := [], records := s.records ++ [rec], responses := s.responses ++ [r] })

/-! ## The whole machine (10_state) -/

/-- Table S1 of R20, the column "written by": an operation that is not a writer of an item leaves it, and an operation that is not a
source of a stream appends nothing to it. -/
def Obligations.EachRegisterChangesOnlyByItsWriters : Prop :=
  ∀ (i : Instr) (s t : State), exec i s = .next t →
    (t.skey ≠ s.skey ∨ t.neg ≠ s.neg → i = .kexc ∨ i = .srst) ∧
    (t.pkey ≠ s.pkey ∨ t.kexp ≠ s.kexp → (∃ k, i = .kexb k) ∨ i = .kexc ∨ i = .kexa ∨ i = .srst) ∧
    (t.verifyEn ≠ s.verifyEn → (∃ arg, i = .setv arg) ∨ i = .srst) ∧
    (t.txSeq ≠ s.txSeq → (∃ op data, i = .enc op data) ∨ (∃ k, i = .kexb k) ∨ i = .srst) ∧
    (t.rxPos ≠ s.rxPos ∨ t.rxPay ≠ s.rxPay → (∃ b, i = .rxb b) ∨ i = .rxe ∨ i = .srst) ∧
    (t.rxOp ≠ s.rxOp ∨ t.rxSeq ≠ s.rxSeq ∨ t.rxLen ≠ s.rxLen ∨ t.rxCrc ≠ s.rxCrc → ∃ b, i = .rxb b) ∧
    (t.tx ≠ s.tx → (∃ op data, i = .enc op data) ∨ ∃ k, i = .kexb k) ∧
    (t.records ≠ s.records → ∃ b, i = .rxb b)

/-- R62, R64: no step retracts a response, a frame or a record. That the state keeps all of them is the model's form, log entry 3. -/
def Obligations.NoStepRetractsAnOutput : Prop :=
  ∀ s : State, ∃ t, step s = .next t ∧ StreamsGrow s t ∧ t.inputs = s.inputs.tail

/-- R24, R25, R26, R36, R38, R64, R93, R95: the invariant holds after reset; and after reset STATUS reads 0 and the active key is
KEY_DEFAULT (R44, R281), the four unspecified registers apart (log entry 4). -/
def Obligations.ResetStateSatisfiesTheInvariant : Prop :=
  ∀ (op seq : Byte) (len : BitVec 16) (crc : Word),
    BlockInv { State.reset with rxOp := op, rxSeq := seq, rxLen := len, rxCrc := crc } ∧ BlockInv State.reset ∧
    statusWord State.reset = 0#32 ∧ activeKey State.reset = 0x35769521#32

/-- R24, R25, R26, R36, R38, R62, R64, R93, R95: every step keeps the invariant, from every state that meets it. -/
def Obligations.EveryStepKeepsTheInvariant : Prop :=
  ∀ s t : State, BlockInv s → step s = .next t → BlockInv t

/-- R36, R38: while the invariant holds the receive position is at most 65544 and the payload buffer within its capacity. -/
def Obligations.ReceivePositionAndBufferStayInRange : Prop :=
  ∀ s : State, BlockInv s → s.rxPos.toNat ≤ 65544 ∧ s.rxPay.length ≤ Config.rxCap ∧
    ∀ (b : Byte) (t : State), exec (.rxb b) s = .next t →
      t.rxPos = 0 ∨ t.rxPos.toNat = s.rxPos.toNat + 1

/-- R37, R39, R46: the stale bits of RX_OP, RX_SEQ, RX_LEN and RX_CRC are never read before they are written: two states equal but for
them give the same responses, frames and records at every step and stay equal but for them. So the reset values the model chose (log
entry 4) can be seen in no output. -/
def Obligations.StaleReceiveBitsAreNeverRead : Prop :=
  (∀ s t : State, SameUpToStale s t →
    ∃ s' t', step s = .next s' ∧ step t = .next t' ∧ SameUpToStale s' t') ∧
  ∀ (ins : List Input) (op seq : Byte) (len : BitVec 16) (crc : Word),
    SameUpToStale { State.reset with inputs := ins }
      { State.reset with inputs := ins, rxOp := op, rxSeq := seq, rxLen := len, rxCrc := crc }
end

