-- ==== Sys2Proof/Laws/Decode.lean ====
section
/-! SUPPORT. The fields of a command word, and what `acceptIf` and a table row ask of a transaction. -/

namespace Sys2Proof

/-- A command word with the reserved bits zero has the fields it was made of. -/
theorem commandWord_fields : ∀ (o : BitVec 4) (a : Byte),
    opnOf (commandWord (o.setWidth 32) a) = o ∧ arg8Of (commandWord (o.setWidth 32) a) = a ∧
      rsv0Of (commandWord (o.setWidth 32) a) = 0 ∧ rsv1Of (commandWord (o.setWidth 32) a) = 0 := by
  decide +kernel

/-- A word with the reserved bits zero is the command word of its OPN and ARG8. -/
theorem eq_commandWord_of_reserved_zero (cw : Word) (h0 : rsv0Of cw = 0) (h1 : rsv1Of cw = 0) :
    cw = commandWord ((opnOf cw).setWidth 32) (arg8Of cw) := by
  unfold rsv0Of at h0
  unfold rsv1Of at h1
  unfold opnOf arg8Of commandWord
  have a0 := fun k => congrArg (fun v : BitVec 4 => v.getLsbD k) h0
  have a1 := fun k => congrArg (fun v : BitVec 16 => v.getLsbD k) h1
  simp only [BitVec.getLsbD_extractLsb', BitVec.ofNat_eq_ofNat, BitVec.getLsbD_zero,
    Bool.and_eq_false_imp, decide_eq_true_eq] at a0 a1
  apply BitVec.eq_of_getLsbD_eq
  intro i hi
  have e0 := a0 (i - 4)
  have e1 := a1 (i - 16)
  by_cases c1 : i < 4
  · simp [c1, hi]; omega
  · by_cases c2 : i < 8
    · rw [show 4 + (i - 4) = i by omega] at e0
      simpa [c1, c2, hi, ← BitVec.getLsbD_eq_getElem] using e0 (by omega)
    · by_cases c3 : i < 16
      · simp [c1, c2, hi, show i - 8 < 8 by omega, show 8 + (i - 8) = i by omega]
      · rw [show 16 + (i - 16) = i by omega] at e1
        simpa [c1, c2, hi, show ¬ (i - 8 < 8) by omega, ← BitVec.getLsbD_eq_getElem] using e1 (by omega)

/-- `acceptIf` answers the operation exactly when both conditions hold. -/
@[simp] theorem acceptIf_eq_ok {a s : Bool} {i j : Instr} :
    acceptIf a s i = .ok j ↔ a = true ∧ s = true ∧ i = j := by
  cases a <;> cases s <;> simp [acceptIf]

/-- The shape of formats N and B. -/
@[simp] theorem fits_n {t : Transaction} : Format.n.fits t = true ↔ t.words = [] ∧ t.data = [] := by
  simp [Format.fits]

@[simp] theorem fits_b {t : Transaction} : Format.b.fits t = true ↔ t.words = [] ∧ t.data = [] := by
  simp [Format.fits]

/-- The shape of format W. -/
@[simp] theorem fits_w {t : Transaction} : Format.w.fits t = true ↔ t.words.length = 1 ∧ t.data = [] := by
  simp [Format.fits]

/-- The shape of format D. -/
@[simp] theorem fits_d {t : Transaction} : Format.d.fits t = true ↔ t.words = [] := by
  simp [Format.fits]

/-- A word with a reserved bit set selects no row: every mask of Table H3 covers them. -/
theorem no_row_of_reserved (cw : Word) (h : rsv0Of cw ≠ 0 ∨ rsv1Of cw ≠ 0) :
    ∀ r ∈ opTable, r.selectedBy cw = false := by
  intro r hr
  by_contra hs
  simp only [OpRow.selectedBy, Bool.not_eq_false, beq_iff_eq] at hs
  have key : ∀ k, r.mask.getLsbD k = true → cw.getLsbD k = r.value.getLsbD k := by
    intro k hk
    rw [← hs]; simp [hk]
  have m : ∀ r ∈ opTable, ∀ k : Fin 32, (4 ≤ k.val ∧ k.val < 8) ∨ 16 ≤ k.val →
      r.mask.getLsbD k = true ∧ r.value.getLsbD k = false := by decide
  rcases h with h | h <;> apply h
  · apply BitVec.eq_of_getLsbD_eq
    intro i hi
    have := m r hr ⟨4 + i, by omega⟩ (by simp; omega)
    simp [rsv0Of, hi, key _ this.1, this.2]
  · apply BitVec.eq_of_getLsbD_eq
    intro i hi
    have := m r hr ⟨16 + i, by omega⟩ (by simp)
    simp [rsv1Of, hi, key _ this.1, this.2]

/-- On a word with the reserved bits zero a row asks for its OPN and for no ARG8 bit its mask covers. -/
theorem selectedBy_commandWord (o : BitVec 4) (a : Byte) : ∀ r ∈ opTable,
    r.selectedBy (commandWord (o.setWidth 32) a) =
      (r.value.extractLsb' 0 4 == o && (r.mask.extractLsb' 8 8 &&& a) == 0) := by
  revert o a
  decide +kernel

/-- A transaction is legal when some row of Table H3 is selected by its word and fits its shape. -/
theorem legal_iff {t : Transaction} :
    t.legal = true ↔ ∃ r ∈ opTable, r.selectedBy t.cw = true ∧ r.format.fits t = true := by
  simp [Transaction.legal]

end Sys2Proof
end

