-- ==== Sys2Proof/Laws/Operands.lean ====
section
/-! SUPPORT. Byte order (00_scope R12): LE16 and LE32 and the value they are read back as; MemRead past a prefix; the write of one
byte of a wider register. -/

namespace Sys2Proof.Machine

@[simp] theorem le16_length (v : BitVec 16) : (le16 v).length = 2 := rfl
@[simp] theorem le32_length (v : BitVec 32) : (le32 v).length = 4 := rfl

@[simp] theorem leValue_nil : leValue [] = 0 := rfl
@[simp] theorem leValue_cons (b : Byte) (bs : List Byte) : leValue (b :: bs) = b.toNat + 256 * leValue bs := rfl

/-- `n` bytes hold a value below `256 ^ n`. -/
theorem leValue_lt (bs : List Byte) : leValue bs < 256 ^ bs.length := by
  induction bs with
  | nil => simp
  | cons b bs ih =>
    have hb : b.toNat < 256 := b.isLt
    rw [leValue_cons, List.length_cons, Nat.pow_succ]
    omega

/-- The value of LE16(v) is v. -/
@[simp] theorem leValue_le16 (v : BitVec 16) : leValue (le16 v) = v.toNat := by
  have hv := v.isLt
  simp only [le16, leValue_cons, leValue_nil, BitVec.extractLsb'_toNat]
  omega

/-- The value of LE32(v) is v. -/
@[simp] theorem leValue_le32 (v : BitVec 32) : leValue (le32 v) = v.toNat := by
  have hv := v.isLt
  simp only [le32, leValue_cons, leValue_nil, BitVec.extractLsb'_toNat, Nat.shiftRight_eq_div_pow]
  omega

theorem drop_append_add (a b : List Byte) (k : Nat) : (a ++ b).drop (a.length + k) = b.drop k := by
  rw [← List.drop_drop, List.drop_left]

/-- Reading past a prefix reads what follows it. -/
@[simp] theorem memRead_append (a b : List Byte) (k n : Nat) : memRead (a ++ b) (a.length + k) n = memRead b k n := by
  simp only [memRead, drop_append_add]

/-- A byte write gives the byte at its place and leaves every other byte. -/
theorem insertByte_extract {w : Nat} (v : BitVec w) (j k : Nat) (b : Byte) (hj : 8 * j + 8 ≤ w) (hk : 8 * k + 8 ≤ w) :
    (insertByte v j b).extractLsb' (8 * k) 8 = if k = j then b else v.extractLsb' (8 * k) 8 := by
  apply BitVec.eq_of_getLsbD_eq
  intro i hi
  have hm : (0xFF#8).getLsbD i = true := by
    rcases (show i = 0 ∨ i = 1 ∨ i = 2 ∨ i = 3 ∨ i = 4 ∨ i = 5 ∨ i = 6 ∨ i = 7 by omega) with
      rfl | rfl | rfl | rfl | rfl | rfl | rfl | rfl <;> rfl
  by_cases h : k = j
  · subst h
    simp [insertByte, hi, show 8 * k + i < w by omega, hm]
  · rcases Nat.lt_or_gt_of_ne h with h' | h'
    · simp [insertByte, hi, h, show 8 * k + i < w by omega, show 8 * k + i < 8 * j by omega]
    · simp [insertByte, hi, h, show 8 * k + i < w by omega, show ¬ 8 * k + i < 8 * j by omega,
        BitVec.getLsbD_of_ge b (8 * k + i - 8 * j) (by omega),
        BitVec.getLsbD_of_ge (255#8) (8 * k + i - 8 * j) (by omega)]

/-- A word is its four bytes. -/
theorem eq_of_bytes_eq {v w : Word} (h : ∀ j < 4, v.extractLsb' (8 * j) 8 = w.extractLsb' (8 * j) 8) : v = w := by
  apply BitVec.eq_of_getLsbD_eq
  intro i hi
  have := congrArg (fun b : Byte => b.getLsbD (i % 8)) (h (i / 8) (by omega))
  simpa [show i % 8 < 8 by omega, show 8 * (i / 8) + i % 8 = i by omega] using this

end Sys2Proof.Machine
end

