-- ==== Sys2Proof/Laws/Ops.lean ====
section
/-! SUPPORT. For each operation the meanings share, one lemma that says once what it does: the error codes, the checksum's steps,
the TX stream and the framer's loop, the deframer's store, DecodeOne. -/

namespace Sys2Proof.Machine

/-! ## Errors -/

/-- Table E1 gives different kinds different codes, and no kind the code of success. -/
theorem errorCode_eq_iff (a b : ErrorKind) : errorCode a = errorCode b ↔ a = b := by
  cases a <;> cases b <;> decide

@[simp] theorem errorCode_ne_zero (e : ErrorKind) : errorCode e ≠ 0 := by cases e <;> decide

/-! ## The checksum -/

/-- The bit a step of R131 shifts out comes back as bit 31, so no step loses one. -/
theorem crcBit_bit31 (c : Word) : (crcBit c).getLsbD 31 = c.getLsbD 0 := by
  unfold crcBit; split <;> simp_all

theorem crcBit_injective : Function.Injective crcBit := by
  intro a b h
  have h31 := congrArg (fun v : Word => v.getLsbD 31) h
  simp only [crcBit_bit31] at h31
  have hs : a >>> 1 = b >>> 1 := by
    unfold crcBit at h
    rw [h31] at h
    split at h
    · exact (BitVec.xor_left_inj _).1 h
    · exact h
  apply BitVec.eq_of_getLsbD_eq
  intro i hi
  rcases Nat.eq_zero_or_pos i with rfl | hp
  · exact h31
  · have := congrArg (fun v : Word => v.getLsbD (i - 1)) hs
    simpa [show 1 + (i - 1) = i by omega, hp] using this

/-! ## The TX stream -/

/-- Emitting bytes appends them to the frame under construction and closes nothing. -/
theorem txEmitAll_eq (p : TxPort) (bs : List Byte) : txEmitAll p bs = ⟨p.closed, p.building ++ bs⟩ := by
  unfold txEmitAll
  induction bs generalizing p with
  | nil => simp
  | cons b bs ih => simp [ih, txEmit]

/-- One pass of the framer's loop closes exactly the frame of its chunk (R151, R152). -/
theorem emitChunk_eq (op seq : Byte) (data : List Byte) (off len : Nat) (key : Word) (p : TxPort)
    (hp : p.building = []) (hl : off + len ≤ data.length) :
    emitChunk op seq data off len key p =
      ⟨p.closed ++ [frameBytes op seq ((data.drop off).take len) key], []⟩ := by
  have h : ((data.drop off).take len).length = len := by simp; omega
  simp only [emitChunk, txEmit, txEmitAll_eq, txEndFrame, frameBytes, hp, h]
  simp

/-- Encode, frame by frame (R151). -/
theorem encodeCommand_eq (op : Byte) (payload : List Byte) (key : Word) :
    encodeCommand op payload key = (List.range (chunkCount payload.length)).map
      fun j => frameBytes op (BitVec.ofNat 8 j) (chunkAt payload j) key := by
  apply List.ext_getElem
  · simp [encodeCommand, splitPayload]
  · intro i h1 h2
    simp [encodeCommand, splitPayload]

/-- The framer's loop from chunk `k` on closes the frames of the chunks from `k` on and leaves TX_SEQ at the number of chunks. -/
theorem encLoop_from (op : Byte) (data : List Byte) (key : Word) : ∀ (fuel k : Nat) (p : TxPort), p.building = [] →
    k < chunkCount data.length → chunkCount data.length - k ≤ fuel →
    encLoop op data key fuel (k * Config.maxChunk) (BitVec.ofNat 8 k) p =
      (⟨p.closed ++ (List.range' k (chunkCount data.length - k)).map
          (fun j => frameBytes op (BitVec.ofNat 8 j) (chunkAt data j) key), []⟩,
        BitVec.ofNat 8 (chunkCount data.length)) := by
  have hmx : Config.maxChunk = 2016 := rfl
  have hcc : chunkCount data.length = max 1 ((data.length + 2015) / 2016) := by simp [chunkCount, hmx]
  intro fuel
  induction fuel with
  | zero => intro k p _ h1 h2; omega
  | succ f ih =>
    intro k p hp h1 h2
    have hk : k * 2016 ≤ data.length := by omega
    have hfit : k * 2016 + min (data.length - k * 2016) 2016 ≤ data.length :=
      (Nat.add_le_add_left (Nat.min_le_left _ _) _).trans_eq (Nat.add_sub_of_le hk)
    have hchunk : (data.drop (k * 2016)).take (min (data.length - k * 2016) 2016) = chunkAt data k := by
      simp only [chunkAt, hmx]
      rw [← List.length_drop, List.take_eq_take_iff]; simp [min_comm]
    have hseq : (BitVec.ofNat 8 k + 1 : Byte) = BitVec.ofNat 8 (k + 1) := by
      apply BitVec.eq_of_toNat_eq; simp
    have hr : List.range' k (chunkCount data.length - k) =
        k :: List.range' (k + 1) (chunkCount data.length - (k + 1)) := by
      rw [show chunkCount data.length - k = (chunkCount data.length - (k + 1)) + 1 by omega, List.range'_succ]
    have hpass := emitChunk_eq op (BitVec.ofNat 8 k) data (k * 2016) (min (data.length - k * 2016) 2016) key p hp
      hfit
    unfold encLoop
    dsimp only
    rw [hmx, hpass, hchunk]
    by_cases hl : k * 2016 + min (data.length - k * 2016) 2016 = data.length
    · have : chunkCount data.length = k + 1 := by omega
      rw [if_pos hl, hseq, hr, this]; simp
    · rw [if_neg hl]
      have hm : k * 2016 + min (data.length - k * 2016) 2016 = (k + 1) * Config.maxChunk := by rw [hmx]; omega
      rw [hm, hseq, ih (k + 1) _ rfl (by omega) (by omega), hr]
      simp

/-- The framer's loop as ENC runs it: the frames of Encode, and TX_SEQ at the number of frames. -/
theorem encLoop_eq (op : Byte) (data : List Byte) (key : Word) (p : TxPort) (hp : p.building = []) :
    encLoop op data key (data.length + 1) 0 0 p =
      (⟨p.closed ++ encodeCommand op data key, []⟩, BitVec.ofNat 8 (chunkCount data.length)) := by
  have hcc : chunkCount data.length = max 1 ((data.length + 2015) / 2016) := by
    simp [chunkCount, Config.maxChunk]
  have := encLoop_from op data key (data.length + 1) 0 p hp (by omega) (by omega)
  rw [encodeCommand_eq]
  simpa [List.range_eq_range'] using this

/-! ## The deframer -/

/-- The store of RXB writes at most RX_OP, RX_SEQ, RX_LEN, RX_PAY and RX_CRC. -/
theorem rxStore_frame (b : Byte) (s : State) : ∃ op seq len pay crc,
    rxStore b s = { s with rxOp := op, rxSeq := seq, rxLen := len, rxPay := pay, rxCrc := crc } := by
  unfold rxStore
  dsimp only
  split_ifs <;> exact ⟨_, _, _, _, _, rfl⟩

/-- The byte that completes a frame is stored nowhere (R96, R174). -/
theorem rxStore_of_completes (b : Byte) (s : State) (h : rxCompletes s = true) : rxStore b s = s := by
  simp only [rxCompletes, Bool.and_eq_true, decide_eq_true_eq, beq_iff_eq] at h
  unfold rxStore
  dsimp only
  rw [if_neg (by omega), if_neg (by omega), if_neg (by omega), if_neg (by omega), if_neg (by omega),
    if_neg (by omega), if_neg (by omega)]

/-- DecodeOne reads nothing before its offset. -/
theorem decodeOne_append (a b : List Byte) : decodeOne (a ++ b) a.length = decodeOne b 0 := by
  simp only [decodeOne, Nat.add_assoc, memRead_append, List.length_append, Nat.add_sub_cancel_left,
    Nat.sub_zero, Nat.zero_add, drop_append_add]

end Sys2Proof.Machine
end

