-- ==== Sys2Proof/Laws/Exec.lean ====
section
/-! SUPPORT. For each operation, once, everything it can do to the state: the shape of its next state. A proof over all operations
cites these and unfolds no meaning. -/

namespace Sys2Proof.Machine

/-- No operation faults or is refused. -/
theorem exec_total (i : Instr) (s : State) : ∃ t, exec i s = .next t := by
  cases i <;> exact ⟨_, rfl⟩

/-- So no run of operations does. -/
theorem runOps_total (ops : List Instr) (s : State) : ∃ t, runOps ops s = .next t := by
  induction ops generalizing s with
  | nil => exact ⟨_, rfl⟩
  | cons i ops ih =>
    obtain ⟨t, ht⟩ := exec_total i s
    obtain ⟨u, hu⟩ := ih t
    exact ⟨u, by simp [runOps, ht, hu]⟩

/-- A run of two lists is the run of the second from where the first ends. -/
theorem runOps_append {a b : List Instr} {s t : State} (h : runOps a s = .next t) :
    runOps (a ++ b) s = runOps b t := by
  induction a generalizing s with
  | nil =>
    simp only [runOps, Host.Outcome.next.injEq] at h
    subst h; rfl
  | cons i a ih =>
    obtain ⟨u, hu⟩ := exec_total i s
    simp only [runOps, List.cons_append, hu] at h ⊢
    exact ih h

/-- ENC: refused, oversized, or framed (R152, R153, R155). -/
theorem exec_enc_cases (op : Byte) (data : List Byte) (s : State) :
    (s.kexp = true ∧ exec (.enc op data) s = .next (raiseError .illegalOp (encode (.enc op data)).cw s)) ∨
    (s.kexp = false ∧ Config.maxCmd < data.length ∧ exec (.enc op data) s =
      .next (raiseError .oversizedCommand (BitVec.ofNat 32 (min data.length 0xFFFFFFFF)) s)) ∨
    (s.kexp = false ∧ data.length ≤ Config.maxCmd ∧ ∃ seq count, exec (.enc op data) s =
      .next (respondOk count { s with tx := s.tx ++ encodeCommand op data (activeKey s), txSeq := seq })) := by
  simp only [exec, execEnc, encUnder, Config.seqPolicy, encLoop_eq _ _ _ _ (show (txOpen s).building = [] from rfl),
    Host.Outcome.next.injEq, true_and]
  cases hk : s.kexp
  · by_cases hl : Config.maxCmd < data.length
    · simp [hl]
    · simp only [hl, Bool.false_eq_true, if_false, false_and, true_and, false_or]
      exact ⟨Nat.le_of_not_lt hl, _, _, rfl⟩
  · simp

/-- KEXB: refused, or it appends the frames of the wire value and latches the candidate (R203). -/
theorem exec_kexb_cases (key : Word) (s : State) :
    ((s.neg = true ∨ s.kexp = true) ∧
      exec (.kexb key) s = .next (raiseError .illegalOp (encode (.kexb key)).cw s)) ∨
    (s.neg = false ∧ s.kexp = false ∧ exec (.kexb key) s = .next (respondOk 1 { s with
      tx := s.tx ++ [frameBytes (Config.opc .setCrcKey) 0 (le32 (wireValue key)) (activeKey s)]
      txSeq := 1, pkey := some key, kexp := true })) := by
  have hc : chunkAt (le32 (wireValue key)) 0 = le32 (wireValue key) := by simp [chunkAt, Config.maxChunk, le32]
  have hn : chunkCount 4 = 1 := by simp [chunkCount, Config.maxChunk]
  cases hn' : s.neg <;> cases hk' : s.kexp <;>
    simp [exec, execKexb, hn', hk', encodeCommand_eq, hn, hc, emitFrames, txEmitAll_eq, txEndFrame, txOpen]

/-- KEXC: refused, or it activates the candidate (R205). -/
theorem exec_kexc_cases (s : State) :
    (s.kexp = true ∧
      exec .kexc s = .next (respondOk 0 { activate (keyBits s.pkey) s with pkey := none, kexp := false })) ∨
    (s.kexp = false ∧ exec .kexc s = .next (raiseError .illegalOp (encode .kexc).cw s)) := by
  cases h : s.kexp <;> simp [exec, execKexc, h]

/-- KEXA: refused, or it drops the candidate (R206). -/
theorem exec_kexa_cases (s : State) :
    (s.kexp = true ∧ exec .kexa s = .next (respondOk 0 { s with pkey := none, kexp := false })) ∨
    (s.kexp = false ∧ exec .kexa s = .next (raiseError .illegalOp (encode .kexa).cw s)) := by
  cases h : s.kexp <;> simp [exec, execKexa, h]

/-- RXB: the byte completes a frame and its record is delivered, or it is stored and RX_POS advances (R174, R180). -/
theorem exec_rxb_cases (b : Byte) (s : State) :
    (rxCompletes s = true ∧ exec (.rxb b) s = .next (rxDeliver s)) ∨
    (rxCompletes s = false ∧ exec (.rxb b) s = .next (respondOk 0 { rxStore b s with rxPos := s.rxPos + 1 })) := by
  cases h : rxCompletes s
  · simp [exec, execRxb, h]
  · simp [exec, execRxb, h, rxStore_of_completes b s h]

/-- The delivery of a record (R180): one record, one response, a frame boundary, nothing else. -/
theorem rxDeliver_frame (s : State) : ∃ r, rxDeliver s = { s with
    rxPos := 0, rxPay := [], records := s.records ++ [rxRecord s], responses := s.responses ++ [r] } ∧
    (crcVerdict s = .mismatch → r = ⟨0x05#8, rxChecksum s⟩) ∧ (crcVerdict s ≠ .mismatch → r = ⟨0#8, 1#32⟩) := by
  by_cases h : crcVerdict s = .mismatch
  · exact ⟨⟨0x05#8, rxChecksum s⟩, by simp only [rxDeliver, h, if_true]; rfl, fun _ => rfl, fun h' => absurd h h'⟩
  · exact ⟨⟨0#8, 1#32⟩, by simp only [rxDeliver, h, if_false]; rfl, fun h' => absurd h' h, fun _ => rfl⟩

/-- RXE: a truncated frame is reported, or nothing was pending (R176). -/
theorem exec_rxe_cases (s : State) :
    (s.rxPos ≠ 0 ∧
      exec .rxe s = .next (raiseError .truncationError (s.rxPos.setWidth 32) (frameBoundary s))) ∨
    (s.rxPos = 0 ∧ exec .rxe s = .next (respondOk 0 (frameBoundary s))) := by
  by_cases h : s.rxPos = 0
  · exact .inr ⟨h, by simp [exec, execRxe, h]⟩
  · exact .inl ⟨h, by simp only [exec, execRxe, ne_eq, h, not_false_eq_true, if_true]⟩

/-- SETV: the switch is written, or the ARG8 is malformed (R220). -/
theorem exec_setv_cases (arg : Byte) (s : State) :
    (arg.toNat ≤ 1 ∧ exec (.setv arg) s = .next (respondOk 0 { s with verifyEn := arg.getLsbD 0 })) ∨
    (1 < arg.toNat ∧ exec (.setv arg) s = .next (raiseError .illegalOp (encode (.setv arg)).cw s)) := by
  by_cases h : arg.toNat ≤ 1
  · exact .inl ⟨h, by simp [exec, execSetv, Instr.wf, h]⟩
  · exact .inr ⟨by omega, by simp [exec, execSetv, Instr.wf, h]⟩

end Sys2Proof.Machine
end

