-- ==== Sys2Proof/Laws/PerInstr.lean ====
section
/-! SUPPORT. Per instruction: the transaction the encoder writes for a well-formed operation is legal by Table H3 (30_encoding R104). -/

namespace Sys2Proof.Laws.EncodedIsLegal

/-- The encoder's transaction of a well-formed operation is legal. -/
def Statement (i : Instr) : Prop := i.wf = true → (encode i).legal = true

/-- The row of Table H3 that an operation number and its argument select, on the encoder's word. -/
theorem legal_of_row (t : Transaction) (o : BitVec 4) (a : Byte) (r : OpRow) (hr : r ∈ opTable)
    (hcw : t.cw = commandWord (o.setWidth 32) a) (ho : r.value.extractLsb' 0 4 = o)
    (ha : r.mask.extractLsb' 8 8 &&& a = 0) (hf : r.format.fits t = true) : t.legal = true :=
  legal_iff.2 ⟨r, hr, by rw [hcw, selectedBy_commandWord o a r hr]; simp [ho, ha], hf⟩

theorem enc (op : Byte) (data : List Byte) : Statement (.enc op data) := fun _ =>
  legal_of_row _ 1#4 op ⟨"ENC", .d, 0x00000001#32, 0xFFFF00FF#32⟩ (by simp [opTable]) rfl rfl
    (by simp) (by simp [encode])

theorem csum (data : List Byte) : Statement (.csum data) := fun _ =>
  legal_of_row _ 2#4 0 ⟨"CSUM", .d, 0x00000002#32, 0xFFFFFFFF#32⟩ (by simp [opTable]) rfl rfl
    (by simp) (by simp [encode])

theorem kexb (key : Word) : Statement (.kexb key) := fun _ =>
  legal_of_row _ 3#4 0 ⟨"KEXB", .w, 0x00000003#32, 0xFFFFFFFF#32⟩ (by simp [opTable]) rfl rfl
    (by simp) (by simp [encode])

theorem kexc : Statement .kexc := fun _ => rfl

theorem kexa : Statement .kexa := fun _ => rfl

theorem rxb (b : Byte) : Statement (.rxb b) := fun _ =>
  legal_of_row _ 6#4 b ⟨"RXB", .b, 0x00000006#32, 0xFFFF00FF#32⟩ (by simp [opTable]) rfl rfl
    (by simp) (by simp [encode])

theorem rxe : Statement .rxe := fun _ => rfl

theorem setv (arg : Byte) : Statement (.setv arg) := fun h =>
  legal_of_row _ 8#4 arg ⟨"SETV", .b, 0x00000008#32, 0xFFFFFEFF#32⟩ (by simp [opTable]) rfl rfl
    (by revert h; revert arg; simp only [Instr.wf]; decide +kernel) (by simp [encode])

theorem rdst : Statement .rdst := fun _ => rfl

theorem srst : Statement .srst := fun _ => rfl

end Sys2Proof.Laws.EncodedIsLegal
end

