-- ==== Sys2Proof/Laws/State.lean ====
section
/-! SUPPORT. One lemma per field of State for each of the named updates, so that no proof unfolds a record update. -/

namespace Sys2Proof.Machine

/-! `respond` -/

@[simp] theorem respond_inputs (code : Byte) (value : Word) (s : State) :
    (respond code value s).inputs = s.inputs := rfl
@[simp] theorem respond_skey (code : Byte) (value : Word) (s : State) :
    (respond code value s).skey = s.skey := rfl
@[simp] theorem respond_neg (code : Byte) (value : Word) (s : State) :
    (respond code value s).neg = s.neg := rfl
@[simp] theorem respond_pkey (code : Byte) (value : Word) (s : State) :
    (respond code value s).pkey = s.pkey := rfl
@[simp] theorem respond_kexp (code : Byte) (value : Word) (s : State) :
    (respond code value s).kexp = s.kexp := rfl
@[simp] theorem respond_verifyEn (code : Byte) (value : Word) (s : State) :
    (respond code value s).verifyEn = s.verifyEn := rfl
@[simp] theorem respond_txSeq (code : Byte) (value : Word) (s : State) :
    (respond code value s).txSeq = s.txSeq := rfl
@[simp] theorem respond_rxPos (code : Byte) (value : Word) (s : State) :
    (respond code value s).rxPos = s.rxPos := rfl
@[simp] theorem respond_rxOp (code : Byte) (value : Word) (s : State) :
    (respond code value s).rxOp = s.rxOp := rfl
@[simp] theorem respond_rxSeq (code : Byte) (value : Word) (s : State) :
    (respond code value s).rxSeq = s.rxSeq := rfl
@[simp] theorem respond_rxLen (code : Byte) (value : Word) (s : State) :
    (respond code value s).rxLen = s.rxLen := rfl
@[simp] theorem respond_rxPay (code : Byte) (value : Word) (s : State) :
    (respond code value s).rxPay = s.rxPay := rfl
@[simp] theorem respond_rxCrc (code : Byte) (value : Word) (s : State) :
    (respond code value s).rxCrc = s.rxCrc := rfl
@[simp] theorem respond_responses (code : Byte) (value : Word) (s : State) :
    (respond code value s).responses = s.responses ++ [⟨code, value⟩] := rfl
@[simp] theorem respond_tx (code : Byte) (value : Word) (s : State) :
    (respond code value s).tx = s.tx := rfl
@[simp] theorem respond_records (code : Byte) (value : Word) (s : State) :
    (respond code value s).records = s.records := rfl

/-! `respondOk` -/

@[simp] theorem respondOk_inputs (v : Word) (s : State) :
    (respondOk v s).inputs = s.inputs := rfl
@[simp] theorem respondOk_skey (v : Word) (s : State) :
    (respondOk v s).skey = s.skey := rfl
@[simp] theorem respondOk_neg (v : Word) (s : State) :
    (respondOk v s).neg = s.neg := rfl
@[simp] theorem respondOk_pkey (v : Word) (s : State) :
    (respondOk v s).pkey = s.pkey := rfl
@[simp] theorem respondOk_kexp (v : Word) (s : State) :
    (respondOk v s).kexp = s.kexp := rfl
@[simp] theorem respondOk_verifyEn (v : Word) (s : State) :
    (respondOk v s).verifyEn = s.verifyEn := rfl
@[simp] theorem respondOk_txSeq (v : Word) (s : State) :
    (respondOk v s).txSeq = s.txSeq := rfl
@[simp] theorem respondOk_rxPos (v : Word) (s : State) :
    (respondOk v s).rxPos = s.rxPos := rfl
@[simp] theorem respondOk_rxOp (v : Word) (s : State) :
    (respondOk v s).rxOp = s.rxOp := rfl
@[simp] theorem respondOk_rxSeq (v : Word) (s : State) :
    (respondOk v s).rxSeq = s.rxSeq := rfl
@[simp] theorem respondOk_rxLen (v : Word) (s : State) :
    (respondOk v s).rxLen = s.rxLen := rfl
@[simp] theorem respondOk_rxPay (v : Word) (s : State) :
    (respondOk v s).rxPay = s.rxPay := rfl
@[simp] theorem respondOk_rxCrc (v : Word) (s : State) :
    (respondOk v s).rxCrc = s.rxCrc := rfl
@[simp] theorem respondOk_responses (v : Word) (s : State) :
    (respondOk v s).responses = s.responses ++ [⟨0, v⟩] := rfl
@[simp] theorem respondOk_tx (v : Word) (s : State) :
    (respondOk v s).tx = s.tx := rfl
@[simp] theorem respondOk_records (v : Word) (s : State) :
    (respondOk v s).records = s.records := rfl

/-! `raiseError` -/

@[simp] theorem raiseError_inputs (e : ErrorKind) (info : Word) (s : State) :
    (raiseError e info s).inputs = s.inputs := rfl
@[simp] theorem raiseError_skey (e : ErrorKind) (info : Word) (s : State) :
    (raiseError e info s).skey = s.skey := rfl
@[simp] theorem raiseError_neg (e : ErrorKind) (info : Word) (s : State) :
    (raiseError e info s).neg = s.neg := rfl
@[simp] theorem raiseError_pkey (e : ErrorKind) (info : Word) (s : State) :
    (raiseError e info s).pkey = s.pkey := rfl
@[simp] theorem raiseError_kexp (e : ErrorKind) (info : Word) (s : State) :
    (raiseError e info s).kexp = s.kexp := rfl
@[simp] theorem raiseError_verifyEn (e : ErrorKind) (info : Word) (s : State) :
    (raiseError e info s).verifyEn = s.verifyEn := rfl
@[simp] theorem raiseError_txSeq (e : ErrorKind) (info : Word) (s : State) :
    (raiseError e info s).txSeq = s.txSeq := rfl
@[simp] theorem raiseError_rxPos (e : ErrorKind) (info : Word) (s : State) :
    (raiseError e info s).rxPos = s.rxPos := rfl
@[simp] theorem raiseError_rxOp (e : ErrorKind) (info : Word) (s : State) :
    (raiseError e info s).rxOp = s.rxOp := rfl
@[simp] theorem raiseError_rxSeq (e : ErrorKind) (info : Word) (s : State) :
    (raiseError e info s).rxSeq = s.rxSeq := rfl
@[simp] theorem raiseError_rxLen (e : ErrorKind) (info : Word) (s : State) :
    (raiseError e info s).rxLen = s.rxLen := rfl
@[simp] theorem raiseError_rxPay (e : ErrorKind) (info : Word) (s : State) :
    (raiseError e info s).rxPay = s.rxPay := rfl
@[simp] theorem raiseError_rxCrc (e : ErrorKind) (info : Word) (s : State) :
    (raiseError e info s).rxCrc = s.rxCrc := rfl
@[simp] theorem raiseError_responses (e : ErrorKind) (info : Word) (s : State) :
    (raiseError e info s).responses = s.responses ++ [⟨errorCode e, info⟩] := rfl
@[simp] theorem raiseError_tx (e : ErrorKind) (info : Word) (s : State) :
    (raiseError e info s).tx = s.tx := rfl
@[simp] theorem raiseError_records (e : ErrorKind) (info : Word) (s : State) :
    (raiseError e info s).records = s.records := rfl

/-! `refuseTransaction` -/

@[simp] theorem refuseTransaction_inputs (t : Transaction) (s : State) :
    (refuseTransaction t s).inputs = s.inputs := rfl
@[simp] theorem refuseTransaction_skey (t : Transaction) (s : State) :
    (refuseTransaction t s).skey = s.skey := rfl
@[simp] theorem refuseTransaction_neg (t : Transaction) (s : State) :
    (refuseTransaction t s).neg = s.neg := rfl
@[simp] theorem refuseTransaction_pkey (t : Transaction) (s : State) :
    (refuseTransaction t s).pkey = s.pkey := rfl
@[simp] theorem refuseTransaction_kexp (t : Transaction) (s : State) :
    (refuseTransaction t s).kexp = s.kexp := rfl
@[simp] theorem refuseTransaction_verifyEn (t : Transaction) (s : State) :
    (refuseTransaction t s).verifyEn = s.verifyEn := rfl
@[simp] theorem refuseTransaction_txSeq (t : Transaction) (s : State) :
    (refuseTransaction t s).txSeq = s.txSeq := rfl
@[simp] theorem refuseTransaction_rxPos (t : Transaction) (s : State) :
    (refuseTransaction t s).rxPos = s.rxPos := rfl
@[simp] theorem refuseTransaction_rxOp (t : Transaction) (s : State) :
    (refuseTransaction t s).rxOp = s.rxOp := rfl
@[simp] theorem refuseTransaction_rxSeq (t : Transaction) (s : State) :
    (refuseTransaction t s).rxSeq = s.rxSeq := rfl
@[simp] theorem refuseTransaction_rxLen (t : Transaction) (s : State) :
    (refuseTransaction t s).rxLen = s.rxLen := rfl
@[simp] theorem refuseTransaction_rxPay (t : Transaction) (s : State) :
    (refuseTransaction t s).rxPay = s.rxPay := rfl
@[simp] theorem refuseTransaction_rxCrc (t : Transaction) (s : State) :
    (refuseTransaction t s).rxCrc = s.rxCrc := rfl
@[simp] theorem refuseTransaction_responses (t : Transaction) (s : State) :
    (refuseTransaction t s).responses = s.responses ++ [⟨0x06#8, t.cw⟩] := rfl
@[simp] theorem refuseTransaction_tx (t : Transaction) (s : State) :
    (refuseTransaction t s).tx = s.tx := rfl
@[simp] theorem refuseTransaction_records (t : Transaction) (s : State) :
    (refuseTransaction t s).records = s.records := rfl

/-! `activate` -/

@[simp] theorem activate_inputs (k : Word) (s : State) :
    (activate k s).inputs = s.inputs := rfl
@[simp] theorem activate_skey (k : Word) (s : State) :
    (activate k s).skey = some k := rfl
@[simp] theorem activate_neg (k : Word) (s : State) :
    (activate k s).neg = true := rfl
@[simp] theorem activate_pkey (k : Word) (s : State) :
    (activate k s).pkey = s.pkey := rfl
@[simp] theorem activate_kexp (k : Word) (s : State) :
    (activate k s).kexp = s.kexp := rfl
@[simp] theorem activate_verifyEn (k : Word) (s : State) :
    (activate k s).verifyEn = s.verifyEn := rfl
@[simp] theorem activate_txSeq (k : Word) (s : State) :
    (activate k s).txSeq = s.txSeq := rfl
@[simp] theorem activate_rxPos (k : Word) (s : State) :
    (activate k s).rxPos = s.rxPos := rfl
@[simp] theorem activate_rxOp (k : Word) (s : State) :
    (activate k s).rxOp = s.rxOp := rfl
@[simp] theorem activate_rxSeq (k : Word) (s : State) :
    (activate k s).rxSeq = s.rxSeq := rfl
@[simp] theorem activate_rxLen (k : Word) (s : State) :
    (activate k s).rxLen = s.rxLen := rfl
@[simp] theorem activate_rxPay (k : Word) (s : State) :
    (activate k s).rxPay = s.rxPay := rfl
@[simp] theorem activate_rxCrc (k : Word) (s : State) :
    (activate k s).rxCrc = s.rxCrc := rfl
@[simp] theorem activate_responses (k : Word) (s : State) :
    (activate k s).responses = s.responses := rfl
@[simp] theorem activate_tx (k : Word) (s : State) :
    (activate k s).tx = s.tx := rfl
@[simp] theorem activate_records (k : Word) (s : State) :
    (activate k s).records = s.records := rfl

/-! `recEmit` -/

@[simp] theorem recEmit_inputs (r : Record) (s : State) :
    (recEmit r s).inputs = s.inputs := rfl
@[simp] theorem recEmit_skey (r : Record) (s : State) :
    (recEmit r s).skey = s.skey := rfl
@[simp] theorem recEmit_neg (r : Record) (s : State) :
    (recEmit r s).neg = s.neg := rfl
@[simp] theorem recEmit_pkey (r : Record) (s : State) :
    (recEmit r s).pkey = s.pkey := rfl
@[simp] theorem recEmit_kexp (r : Record) (s : State) :
    (recEmit r s).kexp = s.kexp := rfl
@[simp] theorem recEmit_verifyEn (r : Record) (s : State) :
    (recEmit r s).verifyEn = s.verifyEn := rfl
@[simp] theorem recEmit_txSeq (r : Record) (s : State) :
    (recEmit r s).txSeq = s.txSeq := rfl
@[simp] theorem recEmit_rxPos (r : Record) (s : State) :
    (recEmit r s).rxPos = s.rxPos := rfl
@[simp] theorem recEmit_rxOp (r : Record) (s : State) :
    (recEmit r s).rxOp = s.rxOp := rfl
@[simp] theorem recEmit_rxSeq (r : Record) (s : State) :
    (recEmit r s).rxSeq = s.rxSeq := rfl
@[simp] theorem recEmit_rxLen (r : Record) (s : State) :
    (recEmit r s).rxLen = s.rxLen := rfl
@[simp] theorem recEmit_rxPay (r : Record) (s : State) :
    (recEmit r s).rxPay = s.rxPay := rfl
@[simp] theorem recEmit_rxCrc (r : Record) (s : State) :
    (recEmit r s).rxCrc = s.rxCrc := rfl
@[simp] theorem recEmit_responses (r : Record) (s : State) :
    (recEmit r s).responses = s.responses := rfl
@[simp] theorem recEmit_tx (r : Record) (s : State) :
    (recEmit r s).tx = s.tx := rfl
@[simp] theorem recEmit_records (r : Record) (s : State) :
    (recEmit r s).records = s.records ++ [r] := rfl

/-! `frameBoundary` -/

@[simp] theorem frameBoundary_inputs (s : State) :
    (frameBoundary s).inputs = s.inputs := rfl
@[simp] theorem frameBoundary_skey (s : State) :
    (frameBoundary s).skey = s.skey := rfl
@[simp] theorem frameBoundary_neg (s : State) :
    (frameBoundary s).neg = s.neg := rfl
@[simp] theorem frameBoundary_pkey (s : State) :
    (frameBoundary s).pkey = s.pkey := rfl
@[simp] theorem frameBoundary_kexp (s : State) :
    (frameBoundary s).kexp = s.kexp := rfl
@[simp] theorem frameBoundary_verifyEn (s : State) :
    (frameBoundary s).verifyEn = s.verifyEn := rfl
@[simp] theorem frameBoundary_txSeq (s : State) :
    (frameBoundary s).txSeq = s.txSeq := rfl
@[simp] theorem frameBoundary_rxPos (s : State) :
    (frameBoundary s).rxPos = 0 := rfl
@[simp] theorem frameBoundary_rxOp (s : State) :
    (frameBoundary s).rxOp = s.rxOp := rfl
@[simp] theorem frameBoundary_rxSeq (s : State) :
    (frameBoundary s).rxSeq = s.rxSeq := rfl
@[simp] theorem frameBoundary_rxLen (s : State) :
    (frameBoundary s).rxLen = s.rxLen := rfl
@[simp] theorem frameBoundary_rxPay (s : State) :
    (frameBoundary s).rxPay = [] := rfl
@[simp] theorem frameBoundary_rxCrc (s : State) :
    (frameBoundary s).rxCrc = s.rxCrc := rfl
@[simp] theorem frameBoundary_responses (s : State) :
    (frameBoundary s).responses = s.responses := rfl
@[simp] theorem frameBoundary_tx (s : State) :
    (frameBoundary s).tx = s.tx := rfl
@[simp] theorem frameBoundary_records (s : State) :
    (frameBoundary s).records = s.records := rfl

/-! `resetSession` -/

@[simp] theorem resetSession_inputs (s : State) :
    (resetSession s).inputs = s.inputs := rfl
@[simp] theorem resetSession_skey (s : State) :
    (resetSession s).skey = none := rfl
@[simp] theorem resetSession_neg (s : State) :
    (resetSession s).neg = false := rfl
@[simp] theorem resetSession_pkey (s : State) :
    (resetSession s).pkey = none := rfl
@[simp] theorem resetSession_kexp (s : State) :
    (resetSession s).kexp = false := rfl
@[simp] theorem resetSession_verifyEn (s : State) :
    (resetSession s).verifyEn = false := rfl
@[simp] theorem resetSession_txSeq (s : State) :
    (resetSession s).txSeq = 0 := rfl
@[simp] theorem resetSession_rxPos (s : State) :
    (resetSession s).rxPos = 0 := rfl
@[simp] theorem resetSession_rxOp (s : State) :
    (resetSession s).rxOp = s.rxOp := rfl
@[simp] theorem resetSession_rxSeq (s : State) :
    (resetSession s).rxSeq = s.rxSeq := rfl
@[simp] theorem resetSession_rxLen (s : State) :
    (resetSession s).rxLen = s.rxLen := rfl
@[simp] theorem resetSession_rxPay (s : State) :
    (resetSession s).rxPay = [] := rfl
@[simp] theorem resetSession_rxCrc (s : State) :
    (resetSession s).rxCrc = s.rxCrc := rfl
@[simp] theorem resetSession_responses (s : State) :
    (resetSession s).responses = s.responses := rfl
@[simp] theorem resetSession_tx (s : State) :
    (resetSession s).tx = s.tx := rfl
@[simp] theorem resetSession_records (s : State) :
    (resetSession s).records = s.records := rfl

/-! `hardwareReset` -/

@[simp] theorem hardwareReset_inputs (s : State) :
    (hardwareReset s).inputs = s.inputs := rfl
@[simp] theorem hardwareReset_skey (s : State) :
    (hardwareReset s).skey = none := rfl
@[simp] theorem hardwareReset_neg (s : State) :
    (hardwareReset s).neg = false := rfl
@[simp] theorem hardwareReset_pkey (s : State) :
    (hardwareReset s).pkey = none := rfl
@[simp] theorem hardwareReset_kexp (s : State) :
    (hardwareReset s).kexp = false := rfl
@[simp] theorem hardwareReset_verifyEn (s : State) :
    (hardwareReset s).verifyEn = false := rfl
@[simp] theorem hardwareReset_txSeq (s : State) :
    (hardwareReset s).txSeq = 0 := rfl
@[simp] theorem hardwareReset_rxPos (s : State) :
    (hardwareReset s).rxPos = 0 := rfl
@[simp] theorem hardwareReset_rxOp (s : State) :
    (hardwareReset s).rxOp = s.rxOp := rfl
@[simp] theorem hardwareReset_rxSeq (s : State) :
    (hardwareReset s).rxSeq = s.rxSeq := rfl
@[simp] theorem hardwareReset_rxLen (s : State) :
    (hardwareReset s).rxLen = s.rxLen := rfl
@[simp] theorem hardwareReset_rxPay (s : State) :
    (hardwareReset s).rxPay = [] := rfl
@[simp] theorem hardwareReset_rxCrc (s : State) :
    (hardwareReset s).rxCrc = s.rxCrc := rfl
@[simp] theorem hardwareReset_responses (s : State) :
    (hardwareReset s).responses = s.responses := rfl
@[simp] theorem hardwareReset_tx (s : State) :
    (hardwareReset s).tx = s.tx := rfl
@[simp] theorem hardwareReset_records (s : State) :
    (hardwareReset s).records = s.records := rfl

/-! The active key depends on NEG and SKEY alone (40_keyring R130). -/

theorem activeKey_congr {s t : State} (hn : s.neg = t.neg) (hk : s.skey = t.skey) : activeKey s = activeKey t := by
  simp [activeKey, hn, hk]

theorem activeKey_unnegotiated {s : State} (h : s.neg = false) : activeKey s = Config.keyDefault := by
  simp [activeKey, h]

theorem activeKey_negotiated {s : State} {k : Word} (h : s.neg = true) (hk : s.skey = some k) : activeKey s = k := by
  simp [activeKey, h, hk, keyBits]

@[simp] theorem activeKey_respond (code : Byte) (value : Word) (s : State) :
    activeKey (respond code value s) = activeKey s := rfl
@[simp] theorem activeKey_respondOk (v : Word) (s : State) : activeKey (respondOk v s) = activeKey s := rfl
@[simp] theorem activeKey_raiseError (e : ErrorKind) (info : Word) (s : State) :
    activeKey (raiseError e info s) = activeKey s := rfl
@[simp] theorem activeKey_recEmit (r : Record) (s : State) : activeKey (recEmit r s) = activeKey s := rfl
@[simp] theorem activeKey_frameBoundary (s : State) : activeKey (frameBoundary s) = activeKey s := rfl
@[simp] theorem activeKey_activate (k : Word) (s : State) : activeKey (activate k s) = k := rfl
@[simp] theorem activeKey_resetSession (s : State) : activeKey (resetSession s) = Config.keyDefault := rfl

end Sys2Proof.Machine
end

