-- ==== Sys2Proof/Tests/Slice0.lean ====
section
/-! SUPPORT. Tests of the model on values of spec/95_test_vectors.md (named V-…), and the witnesses of the statements' hypotheses. -/

namespace Sys2Proof.Tests

open Sys2Proof Sys2Proof.Machine

/-! ## Helpers -/

/-- The next state of an outcome, if it is one. -/
def nextOf : Result → Option State
  | .next s => some s
  | .fault _ => none
  | .refused _ => none

/-- Z(n) of the vectors: n bytes 00. -/
def zeros (n : Nat) : List Byte := List.replicate n 0#8

theorem zeros_length (n : Nat) : (zeros n).length = n := List.length_replicate

/-- The response an operation gives. -/
def responseOf (i : Instr) (s : State) : Option Response :=
  (nextOf (exec i s)).bind fun t => t.responses.getLast?

/-- The response one step gives to a transaction presented to the machine right after reset. -/
def replyToFirst (t : Transaction) : Option Response :=
  (nextOf (step { State.reset with inputs := [.op t] })).bind fun u => u.responses.getLast?

/-- The operation a transaction decodes to. -/
def decoded (t : Transaction) : Option Instr :=
  match decode t with
  | .ok i => some i
  | .error _ => none

/-- After V-X1: the candidate 0x12345678 is pending. -/
def pending : State := { State.reset with pkey := some 0x12345678#32, kexp := true, txSeq := 1 }

/-- After V-X2: keyed with 0x12345678. -/
def keyed : State := { State.reset with skey := some 0x12345678#32, neg := true, txSeq := 1 }

/-- Before the last byte of V-R3, with the switch and the received checksum given. -/
def lastByteDue (verify : Bool) (crc : Word) : State :=
  { State.reset with verifyEn := verify, rxPos := 10, rxOp := 0x19, rxLen := 1, rxPay := [0x00#8], rxCrc := crc }

/-! ## Well-formedness: each check has a term it refuses -/

theorem test_setv_argument_above_one_is_ill_formed : (Instr.setv 2#8).wf = false := by decide
theorem test_setv_argument_one_is_well_formed : (Instr.setv 1#8).wf = true := by decide

/-- V-I1 to V-I12: every transaction of the table is illegal. -/
theorem test_illegal_transactions : ([
    ⟨0x00000000#32, [], []⟩, ⟨0x0000000B#32, [], []⟩, ⟨0x0000000F#32, [], []⟩, ⟨0x00000019#32, [], []⟩,
    ⟨0x00010009#32, [], []⟩, ⟨0x00000109#32, [], []⟩, ⟨0x00000208#32, [], []⟩, ⟨0x00000102#32, [], [0x64#8]⟩,
    ⟨0x00000003#32, [], []⟩, ⟨0x00000004#32, [0#32], []⟩, ⟨0x00000206#32, [], [0x00#8]⟩,
    ⟨0x00000107#32, [], []⟩] : List Transaction).all (fun t => !t.legal && (decoded t).isNone) = true := by
  decide

/-- Each is answered ERR(IllegalOp, CW); one of each clause of R104. -/
theorem test_illegal_transactions_reply :
    replyToFirst ⟨0x0000000B#32, [], []⟩ = some ⟨0x06#8, 0x0000000B#32⟩ ∧
    replyToFirst ⟨0x00010009#32, [], []⟩ = some ⟨0x06#8, 0x00010009#32⟩ ∧
    replyToFirst ⟨0x00000208#32, [], []⟩ = some ⟨0x06#8, 0x00000208#32⟩ ∧
    replyToFirst ⟨0x00000003#32, [1#32, 2#32], []⟩ = some ⟨0x06#8, 0x00000003#32⟩ := by decide

/-! ## Decoding: a word of every row of Table H3, written from its encoding -/

theorem test_decode_enc : decode ⟨0x00001901#32, [], [0x64#8]⟩ = .ok (.enc 0x19#8 [0x64#8]) := by rfl
theorem test_decode_csum : decode ⟨0x00000002#32, [], [0x2C#8, 0x01#8]⟩ = .ok (.csum [0x2C#8, 0x01#8]) := by rfl
theorem test_decode_kexb : decode ⟨0x00000003#32, [0x12345678#32], []⟩ = .ok (.kexb 0x12345678#32) := by rfl
theorem test_decode_kexc : decode ⟨0x00000004#32, [], []⟩ = .ok .kexc := by rfl
theorem test_decode_kexa : decode ⟨0x00000005#32, [], []⟩ = .ok .kexa := by rfl
theorem test_decode_rxb : decode ⟨0x00000206#32, [], []⟩ = .ok (.rxb 0x02#8) := by rfl
theorem test_decode_rxe : decode ⟨0x00000007#32, [], []⟩ = .ok .rxe := by rfl
theorem test_decode_setv : decode ⟨0x00000108#32, [], []⟩ = .ok (.setv 0x01#8) := by rfl
theorem test_decode_rdst : decode ⟨0x00000009#32, [], []⟩ = .ok .rdst := by rfl
theorem test_decode_srst : decode ⟨0x0000000A#32, [], []⟩ = .ok .srst := by rfl

/-- The rows of spec/opcode_table.json as numbered words: CW in bits 31:0, KEXB's operand word in bits 63:32. -/
theorem test_table_words :
    decodeTableWord 32 0x00001901 = some (.enc 0x19#8 []) ∧
    decodeTableWord 40 0x6400001901 = some (.enc 0x19#8 [0x64#8]) ∧
    decodeTableWord 32 0x00000002 = some (.csum []) ∧
    decodeTableWord 64 0x1234567800000003 = some (.kexb 0x12345678#32) ∧
    decodeTableWord 32 0x00000003 = some (.kexb 0#32) ∧
    decodeTableWord 32 0x00000206 = some (.rxb 0x02#8) ∧
    decodeTableWord 32 0x00000108 = some (.setv 1#8) ∧
    decodeTableWord 32 0x00000208 = none := by decide

/-- The first step after reset runs the placed instruction: RDST answers OK(0) (V-S1), SETV 1 sets the switch (V-S2). -/
theorem test_placed_instruction_runs_first :
    nextOf (step (State.reset.withFetchWord 32 0x00000009)) =
      some { State.reset with responses := [⟨0#8, 0#32⟩] } ∧
    nextOf (step (State.reset.withFetchWord 32 0x00000108)) =
      some { State.reset with verifyEn := true, responses := [⟨0#8, 0#32⟩] } := by decide

/-! ## The parameters agree among themselves (R7) -/

theorem test_parameters_agree :
    Config.maxCmd = 516096 ∧ Config.frameOverhead = 1 + 1 + 1 + 2 + 4 + 1 ∧
    Config.hdrLen + 4 + 1 = Config.frameOverhead ∧ Config.rxCap = 2 ^ 16 - 1 ∧
    le16 300#16 = [0x2C#8, 0x01#8] ∧ Config.maxRead = 1024 := by decide

/-! ## The keyed checksum (V-K1, V-K2, V-K3, V-K8, V-K12, V-K16, V-K20, V-K22) -/

theorem test_kcrc_default_key :
    kcrc 0x35769521#32 [] = 0x35769521#32 ∧ kcrc 0x35769521#32 [0x64#8] = 0xD4812C07#32 ∧
    kcrc 0x35769521#32 [0x2C#8, 0x01#8] = 0x03150E99#32 ∧
    kcrc 0x35769521#32 [0x31#8, 0x32#8, 0x33#8, 0x34#8, 0x35#8, 0x36#8, 0x37#8, 0x38#8, 0x39#8] = 0xE211665C#32 ∧
    kcrc 0x35769521#32 [0xDE#8, 0x6A#8, 0x89#8, 0xCA#8] = 0xFFFFFFFF#32 := by decide +kernel

theorem test_kcrc_other_keys :
    kcrc 0x12345678#32 [0x64#8] = 0xC6118794#32 ∧ kcrc 0xFFFFFFFF#32 [0x00#8] = 0xFFFFFFFF#32 ∧
    kcrc 0x00000000#32 [0x31#8, 0x32#8, 0x33#8, 0x34#8, 0x35#8, 0x36#8, 0x37#8, 0x38#8, 0x39#8] = 0xCBF43926#32 := by
  decide +kernel

/-! ## ENC and CSUM -/

/-- V-E3. -/
theorem test_enc_two_bytes : nextOf (exec (.enc 0x1A#8 [0x2C#8, 0x01#8]) State.reset) = some { State.reset with
    tx := [[0x02#8, 0x1A#8, 0x00#8, 0x02#8, 0x00#8, 0x2C#8, 0x01#8, 0x99#8, 0x0E#8, 0x15#8, 0x03#8, 0x03#8]]
    txSeq := 1, responses := [⟨0#8, 1#32⟩] } := by decide +kernel

/-- V-E10, second half: the session key, and the empty payload of V-E1. -/
theorem test_enc_empty_under_session_key : (nextOf (exec (.enc 0x1B#8 []) keyed)).map (·.tx) =
    some [[0x02#8, 0x1B#8, 0x00#8, 0x00#8, 0x00#8, 0x78#8, 0x56#8, 0x34#8, 0x12#8, 0x03#8]] := by decide +kernel

/-- V-E5: the second frame of a command one byte over MAX_CHUNK, its last payload byte pat[2016] = 0xE0. -/
theorem test_encode_second_frame :
    (encodeCommand 0x00#8 (zeros 2016 ++ [0xE0#8]) 0x35769521#32)[1]? =
      some [0x02#8, 0x00#8, 0x01#8, 0x01#8, 0x00#8, 0xE0#8, 0x3E#8, 0x6B#8, 0x54#8, 0x3E#8, 0x03#8] := by
  decide +kernel

/-- V-X2. -/
theorem test_csum_under_session_key :
    nextOf (exec (.csum [0x2C#8, 0x01#8]) keyed) = some { keyed with responses := [⟨0#8, 0x6A015CCC#32⟩] } := by
  decide +kernel

/-! ## The key exchange -/

/-- V-X1: the checksum and the payload of the SetCrcKey frame. -/
theorem test_kexb_checksum :
    le32 (wireValue 0x12345678#32) = [0x59#8, 0xC3#8, 0x42#8, 0x27#8] ∧
    kcrc 0x35769521#32 [0x59#8, 0xC3#8, 0x42#8, 0x27#8] = 0xAF6D87D2#32 := by decide +kernel

/-- V-X1: all the operation does, its protocol opcode left open. -/
theorem test_kexb_after_reset : exec (.kexb 0x12345678#32) State.reset = .next { State.reset with
    pkey := some 0x12345678#32, kexp := true, txSeq := 1, responses := [⟨0#8, 1#32⟩]
    tx := [[0x02#8, Config.opc .setCrcKey, 0x00#8, 0x04#8, 0x00#8, 0x59#8, 0xC3#8, 0x42#8, 0x27#8,
      0xD2#8, 0x87#8, 0x6D#8, 0xAF#8, 0x03#8]] } := by
  have hk : activeKey State.reset = 0x35769521#32 := rfl
  have hc : le32 (kcrc 0x35769521#32 (le32 (wireValue 0x12345678#32))) = [0xD2#8, 0x87#8, 0x6D#8, 0xAF#8] := by
    decide +kernel
  rcases exec_kexb_cases 0x12345678#32 State.reset with h | ⟨_, _, h⟩
  · exact absurd h.1 (by decide)
  · rw [h, hk]
    unfold frameBytes
    rw [hc]
    rfl

/-- V-X5: refused in Pending. -/
theorem test_kexb_in_pending_refused :
    nextOf (exec (.kexb 1#32) pending) = some { pending with responses := [⟨0x06#8, 0x00000003#32⟩] } := by decide

/-- V-X2. -/
theorem test_kexc_in_pending : nextOf (exec .kexc pending) = some { keyed with responses := [⟨0#8, 0#32⟩] } := by decide

/-- V-X5. -/
theorem test_kexc_after_reset_refused :
    nextOf (exec .kexc State.reset) = some { State.reset with responses := [⟨0x06#8, 0x00000004#32⟩] } := by decide

/-- V-X3. -/
theorem test_kexa_in_pending :
    nextOf (exec .kexa pending) = some { State.reset with txSeq := 1, responses := [⟨0#8, 0#32⟩] } := by decide

/-- V-X5. -/
theorem test_kexa_after_reset_refused : responseOf .kexa State.reset = some ⟨0x06#8, 0x00000005#32⟩ := by decide

/-! ## The deframer -/

/-- V-R5: the record is delivered with MISMATCH and the answer is the checksum the block computed. -/
theorem test_rxb_checksum_mismatch : nextOf (exec (.rxb 0x03#8) (lastByteDue true 0x9F5E8946#32)) =
    some { lastByteDue true 0x9F5E8946#32 with
      rxPos := 0, rxPay := []
      records := [⟨⟨0x19#8, 0x00#8, 1#16, [0x00#8], 0x9F5E8946#32⟩, .mismatch⟩]
      responses := [⟨0x05#8, 0x9E5E8946#32⟩] } := by decide +kernel

/-- Fifth byte of V-R9: the high length byte, from position 4. -/
theorem test_rxb_length_high_byte :
    (nextOf (exec (.rxb 0x03#8) { State.reset with rxPos := 4, rxLen := 0x019E#16 })).map (fun t => (t.rxPos, t.rxLen)) =
      some (5#17, 0x039E#16) := by decide

/-- V-R6: RXE after the four payload bytes of a frame that declares eight. -/
theorem test_rxe_truncated :
    (nextOf (exec .rxe { State.reset with rxPos := 9, rxLen := 8, rxPay := [0x46#8, 0x47#8, 0x48#8, 0x49#8] })).map
      (fun t => (t.responses, t.rxPos, t.rxPay, t.records)) =
      some ([⟨0x03#8, 9#32⟩], 0#17, [], []) := by decide

/-- V-R8. -/
theorem test_rxe_at_boundary :
    nextOf (exec .rxe State.reset) = some { State.reset with responses := [⟨0#8, 0#32⟩] } := by decide

/-- V-R6 as Parse reads it: one whole frame and a truncated one. -/
theorem test_parse_truncation : parseBuffer
    [0x02#8, 0x0B#8, 0x00#8, 0x03#8, 0x00#8, 0x41#8, 0x42#8, 0x43#8, 0xFC#8, 0x85#8, 0x5C#8, 0x2F#8, 0x03#8,
      0x02#8, 0x0B#8, 0x01#8, 0x08#8, 0x00#8, 0x46#8, 0x47#8, 0x48#8, 0x49#8] =
    ([⟨0x0B#8, 0x00#8, 3#16, [0x41#8, 0x42#8, 0x43#8], 0x2F5C85FC#32⟩], some .truncationError) := by decide

/-! ## The system operations -/

/-- V-I7: a malformed ARG8 changes nothing, as an operation too. -/
theorem test_setv_two_refused :
    nextOf (exec (.setv 2#8) State.reset) = some { State.reset with responses := [⟨0x06#8, 0x00000208#32⟩] } := by decide

/-- V-S3. -/
theorem test_rdst_all_flags :
    responseOf .rdst { pending with verifyEn := true, rxPos := 1 } = some ⟨0#8, 0x0000010E#32⟩ := by decide

/-- V-S4: the pending exchange and the partial frame are gone, the stale RX_OP stays. -/
theorem test_srst_in_pending :
    nextOf (exec .srst { pending with verifyEn := true, rxPos := 2, rxOp := 0x1A }) =
      some { State.reset with rxOp := 0x1A, responses := [⟨0#8, 0#32⟩] } := by decide

/-! ## Witnesses: for each statement with hypotheses, a state and operands that meet them -/

theorem test_witness_DecodeOfEncodeIsTheOperation : (Instr.setv 1#8).wf = true ∧ (Instr.setv 0#8).wf = true := by decide

theorem test_witness_DecodedTransactionIsTheEncodingOfItsOperation :
    decode ⟨0x00000003#32, [0x12345678#32], []⟩ = .ok (.kexb 0x12345678#32) := by rfl

theorem test_witness_TransactionDecodesExactlyWhenATableRowFits :
    (∃ i, decode ⟨0x00000108#32, [], []⟩ = .ok i) ∧ Transaction.legal ⟨0x00000108#32, [], []⟩ = true ∧
      Transaction.legal ⟨0x00000208#32, [], []⟩ = false := ⟨⟨_, rfl⟩, by decide, by decide⟩

theorem test_witness_NoCommandWordSelectsTwoRows :
    ∃ r ∈ opTable, r.selectedBy 0x00001901#32 = true := by decide

theorem test_witness_IllegalTransactionIsRefusedUnchanged :
    let t : Transaction := ⟨0x00000102#32, [], [0x64#8]⟩
    t.legal = false ∧ ({ State.reset with inputs := [.op t] } : State).inputs = .op t :: [] := ⟨by decide, rfl⟩

theorem test_witness_StepRunsTheDecodedOperation :
    ∃ (s : State) (t : Transaction) (rest : List Input) (i : Instr),
      s.inputs = .op t :: rest ∧ decode t = .ok i :=
  ⟨{ State.reset with inputs := [.op ⟨0x00000009#32, [], []⟩] }, ⟨0x00000009#32, [], []⟩, [], .rdst, rfl, rfl⟩

theorem test_witness_StepWithoutAnInputHoldsTheState : State.reset.inputs = [] := rfl

theorem test_witness_HardwareResetHasTheEffectOfSrstWithoutAResponse :
    ({ keyed with inputs := [.hardwareReset] } : State).inputs = .hardwareReset :: [] := rfl

theorem test_witness_EachResetLeavesTheResetValues :
    ({ keyed with inputs := [.hardwareReset] } : State).inputs = .hardwareReset :: [] := rfl

/-- For each OPN an illegal transaction that carries it: RSV0 is not zero. -/
theorem test_witness_MalformedIsRefused : (List.range' 1 10).all (fun n =>
    let t : Transaction := ⟨BitVec.ofNat 32 (n + 16), [], []⟩
    (t.cw.extractLsb' 0 4).toNat == n && !t.legal && ({ State.reset with inputs := [.op t] } : State).inputs == [.op t]) =
    true := by decide

theorem test_witness_ActiveKeyIsSessionKeyOnceNegotiated :
    State.reset.neg = false ∧ keyed.neg = true ∧ keyed.skey = some 0x12345678#32 := by decide

theorem test_witness_DifferentKeysGiveDifferentChecksums :
    kcrc 0x12345678#32 [0x64#8] = kcrc 0x12345678#32 [0x64#8] := rfl

theorem test_witness_CsumAnswersKeyedChecksumAndChangesNothing :
    pending.neg = false ∧ pending.kexp = true ∧ pending.pkey = some 0x12345678#32 := by decide

theorem test_witness_SplitCutsThePayloadIntoFullChunksAndARest :
    splitPayload [] = [[]] ∧ (splitPayload (zeros 2017))[0]? = some (zeros 2016) ∧
      (splitPayload (zeros 2017))[1]? = some [0#8] ∧
      (splitPayload (zeros 2017)).length = 2 ∧
      (splitPayload (zeros 2016)).length = 1 := by decide +kernel

theorem test_witness_FrameAndEncodeHaveTheirLayout :
    ([] : List Byte).length ≤ 65535 ∧ (zeros 65535).length ≤ 65535 ∧
      (splitPayload [0x64#8])[0]? = some [0x64#8] :=
  ⟨by decide, (zeros_length _).le, by decide +kernel⟩

theorem test_witness_EncAppendsExactlyTheEncodedFrames :
    State.reset.kexp = false ∧ ([] : List Byte).length ≤ 516096 ∧
      (zeros 516096).length ≤ 516096 ∧ pending.kexp = true ∧
      516096 < (zeros 516097).length :=
  ⟨rfl, by decide, (zeros_length _).le, rfl, by rw [zeros_length]; decide⟩

theorem test_witness_WrapPolicyFramesEveryLength :
    State.reset.kexp = false ∧ max 1 (((zeros 516097).length + 2015) / 2016) < 2 ^ 32 ∧
      (encodeCommand 0x19#8 [0x64#8] 0#32)[0]?.isSome = true := by
  exact ⟨rfl, by rw [zeros_length]; decide, by decide +kernel⟩

theorem test_witness_OversizedCommandRaisedExactlyByLongEnc :
    State.reset.kexp = false ∧ 516096 < (zeros 516097).length ∧
      ∃ t, exec (.enc 0x00#8 (zeros 516097)) State.reset = .next t :=
  ⟨rfl, by rw [zeros_length]; decide, exec_total _ _⟩

theorem test_witness_EncodedLengthIsPayloadPlusTenPerFrame :
    (zeros 2017).length = 2017 ∧
      (2017, 2) ∈ [(0, 1), (1, 1), (2016, 1), (2017, 2), (4032, 2), (4033, 3), (4096, 3), (516096, 256)] :=
  ⟨zeros_length _, by decide⟩

theorem test_witness_DecodeOneRecoversEveryEncodedFrame :
    (splitPayload [0x64#8])[0]? = some [0x64#8] ∧
      (splitPayload (zeros 2017))[1]? = some [0#8] := by decide +kernel

theorem test_witness_ReissuedEncGivesTheSameFrames :
    State.reset.kexp = false ∧ [0x64#8].length ≤ 516096 := by decide

theorem test_witness_DecodeOneFailsExactlyOnTruncation :
    0 ≤ [0x02#8].length ∧ decodeOne [0x02#8] 0 = .error .truncationError ∧
    decodeOne [0x02#8, 0x1A#8, 0x00#8, 0x00#8, 0x00#8, 0x21#8, 0x95#8, 0x76#8, 0x35#8] 0 = .error .truncationError ∧
    decodeOne [0x02#8, 0x1A#8, 0x00#8, 0x00#8, 0x00#8, 0x21#8, 0x95#8, 0x76#8, 0x35#8, 0x03#8] 0 =
      .ok (⟨0x1A#8, 0x00#8, 0#16, [], 0x35769521#32⟩, 10) := by
  refine ⟨by decide, by rfl, by rfl, by rfl⟩

theorem test_witness_MarkerValuesAreIgnored :
    decodeOne [0x02#8, 0x1A#8, 0x00#8, 0x00#8, 0x00#8, 0x21#8, 0x95#8, 0x76#8, 0x35#8, 0x03#8] 0 =
      .ok (⟨0x1A#8, 0x00#8, 0#16, [], 0x35769521#32⟩, 10) ∧
    State.reset.rxPos.toNat = 0 ∧ 5 ≤ (lastByteDue true 0).rxPos.toNat ∧
    (lastByteDue true 0).rxPos.toNat = 9 + (lastByteDue true 0).rxLen.toNat := by
  refine ⟨by rfl, by decide, by decide, by decide⟩

theorem test_witness_ParseAccountsForTheBuffer :
    decodeOne [0x02#8, 0x1A#8, 0x00#8, 0x00#8, 0x00#8, 0x21#8, 0x95#8, 0x76#8, 0x35#8, 0x03#8] 0 =
      .ok (⟨0x1A#8, 0x00#8, 0#16, [], 0x35769521#32⟩, 10) ∧
    [0x02#8] ≠ [] ∧ decodeOne [0x02#8] 0 = .error .truncationError := ⟨by rfl, by decide, by rfl⟩

/-- The first position, the last header position, and the last before the end marker of an empty and of the longest frame. -/
theorem test_witness_RxbStoresTheByteWhereItsPositionSays :
    State.reset.rxPos.toNat < 5 ∧ ({ State.reset with rxPos := 4 } : State).rxPos.toNat < 5 ∧
    (let s : State := { State.reset with rxPos := 8 }; s.rxPos.toNat < 9 + s.rxLen.toNat) ∧
    (let s : State := { State.reset with rxPos := 65543, rxLen := 65535 }; s.rxPos.toNat < 9 + s.rxLen.toNat) := by
  decide

theorem test_witness_RxbDeliversTheCompletedRecordWithItsVerdict :
    let s := lastByteDue true 0x9E5E8946#32
    let r := lastByteDue true 0x9F5E8946#32
    5 ≤ s.rxPos.toNat ∧ s.rxPos.toNat = 9 + s.rxLen.toNat ∧ (lastByteDue false 0).verifyEn = false ∧
      s.verifyEn = true ∧ kcrc (activeKey s) s.rxPay = s.rxCrc ∧
      kcrc (activeKey r) r.rxPay ≠ r.rxCrc := by decide +kernel

theorem test_witness_RxeReportsAnIncompleteFrame :
    (lastByteDue true 0).rxPos ≠ 0 ∧ State.reset.rxPos = 0 ∧ DeframerInv State.reset ∧
      DeframerInv (lastByteDue true 0) := by decide

theorem test_witness_ByteSerialDeframerAgreesWithParse : State.reset.rxPos = 0 ∧ State.reset.rxPay = [] := by decide

theorem test_witness_EachRecordIsDeliveredByItsLastByte :
    State.reset.rxPos = 0 ∧ State.reset.rxPay = [] ∧ 2 ≤ [0x02#8, 0x1A#8, 0x00#8].length := by decide

theorem test_witness_LoopedBackFramesVerify :
    let s : State := { State.reset with verifyEn := true }
    s.kexp = false ∧ s.rxPos = 0 ∧ s.rxPay = [] ∧ s.verifyEn = true ∧ [0x64#8].length ≤ 516096 := by decide

theorem test_witness_KexbFramesTheWireValueUnderTheDefaultKey :
    State.reset.neg = false ∧ State.reset.kexp = false ∧ keyed.neg = true ∧ pending.kexp = true := by decide

theorem test_witness_KexcActivatesTheCandidate :
    pending.kexp = true ∧ pending.pkey = some 0x12345678#32 ∧ State.reset.kexp = false := by decide

theorem test_witness_KexaDropsTheCandidate :
    KeyringInv pending ∧ pending.kexp = true ∧ State.reset.kexp = false := by decide

theorem test_witness_KeyPhaseMovesAsTheTableSays :
    KeyringInv State.reset ∧ KeyringInv pending ∧ KeyringInv keyed ∧ keyPhase State.reset ≠ .keyed ∧
      keyPhase pending = .pending ∧ keyPhase keyed = .keyed ∧ ∃ t, exec .kexc pending = .next t :=
  ⟨by decide, by decide, by decide, by decide, by decide, by decide, _, rfl⟩

theorem test_witness_AbortedExchangeLeavesTheKeyringUntouched :
    KeyringInv State.reset ∧ keyPhase State.reset = .unkeyed ∧ (10 : Nat) ≠ 14 := by decide

theorem test_witness_KeyExchangeOrderingLaw :
    State.reset.neg = false ∧ State.reset.kexp = false ∧ (∀ i ∈ [Instr.rdst, Instr.rxe], i ≠ .srst) ∧
      [0x64#8].length ≤ 516096 ∧ 0x12345678#32 ≠ 0x35769521#32 := by decide

theorem test_witness_KeyedIsTerminalForTheSession :
    KeyringInv keyed ∧ keyed.neg = true ∧ State.reset.neg = false ∧ (∀ i ∈ [Instr.kexc, Instr.kexb 1#32], i ≠ .srst) ∧
      ∃ t, exec .kexa keyed = .next t := ⟨by decide, by decide, by decide, by decide, _, rfl⟩

theorem test_witness_SetvWritesTheVerificationSwitch : 1 < (2#8).toNat ∧ 1 < (255#8).toNat := by decide

theorem test_witness_SetvAndSrstAreIdempotent :
    ∃ i : Instr, (i = .srst ∨ ∃ arg : Byte, i = .setv arg ∧ arg.toNat ≤ 1) :=
  ⟨.setv 1#8, .inr ⟨1#8, rfl, by decide⟩⟩

theorem test_witness_PrinterCallsEmitOneFrame :
    State.reset.kexp = false ∧ PrinterCall.setPaper 5#8 = .setPaper 5#8 ∧
      OpcodeName.setPaperType = .setPaperType := by decide

theorem test_witness_ProtocolOpcodesAreDistinct : Config.opc .feedLine = Config.opc .feedLine := rfl

/-- One state and operation for each code a failed operation answers: 0x06, 0x04, 0x03, 0x05. -/
theorem test_witness_FailedOperationLeavesWhatTheTableSays :
    responseOf .kexc State.reset = some ⟨0x06#8, 4#32⟩ ∧
    responseOf .rxe (lastByteDue true 0) = some ⟨0x03#8, 10#32⟩ ∧
    responseOf (.rxb 0x03#8) (lastByteDue true 0x9F5E8946#32) = some ⟨0x05#8, 0x9E5E8946#32⟩ := by decide +kernel

/-- V-E9. -/
theorem test_witness_oversized_code :
    responseOf (.enc 0x00#8 (zeros 516097)) State.reset = some ⟨0x04#8, 0x0007E001#32⟩ := by
  have h : Config.maxCmd < (zeros 516097).length := by rw [zeros_length]; decide
  rcases exec_enc_cases 0x00#8 (zeros 516097) State.reset with ⟨hk, _⟩ | ⟨_, _, he⟩ | ⟨_, hl, _⟩
  · exact absurd hk (by decide)
  · rw [responseOf, he, zeros_length]; rfl
  · exact absurd h (by omega)

theorem test_witness_EachRegisterChangesOnlyByItsWriters :
    (∃ t, exec .kexc pending = .next t ∧ t.skey ≠ pending.skey ∧ t.pkey ≠ pending.pkey) ∧
    (∃ t, exec (.setv 1#8) State.reset = .next t ∧ t.verifyEn ≠ State.reset.verifyEn) ∧
    (∃ t, exec .rxe (lastByteDue true 0) = .next t ∧ t.rxPos ≠ (lastByteDue true 0).rxPos) :=
  ⟨⟨_, rfl, by decide, by decide⟩, ⟨_, rfl, by decide⟩, ⟨_, rfl, by decide⟩⟩

theorem test_witness_EveryStepKeepsTheInvariant :
    BlockInv { pending with inputs := [.op ⟨0x00000004#32, [], []⟩] } ∧
      ∃ t, step { pending with inputs := [.op ⟨0x00000004#32, [], []⟩] } = .next t := ⟨by decide, _, rfl⟩

theorem test_witness_ReceivePositionAndBufferStayInRange :
    BlockInv (lastByteDue true 0) ∧ ∃ t, exec (.rxb 0x03#8) (lastByteDue true 0) = .next t := ⟨by decide, _, rfl⟩

theorem test_witness_StaleReceiveBitsAreNeverRead :
    SameUpToStale State.reset { State.reset with rxOp := 0xFF#8, rxCrc := 0xFFFFFFFF#32 } := by
  constructor <;> first | rfl | (intro h; exact absurd h (by decide)) | (intro j hj h; exact absurd h (by decide))

end Sys2Proof.Tests
end

/-! PROOFS of the family 10_state: what a step and an operation can do, said once, and the invariants of the whole machine
(10_state R20 to R46) derived from that. -/

namespace Sys2Proof.Machine

/-! ## One step, by the input it takes (20_memory R61, 70_reset_and_hazards R280) -/

theorem step_without_input {s : State} (h : s.inputs = []) : step s = .next s := by
  simp [step, h]

theorem step_of_hardwareReset {s : State} {rest : List Input} (h : s.inputs = .hardwareReset :: rest) :
    step s = .next (hardwareReset { s with inputs := rest }) := by
  simp [step, h]

theorem step_of_decoded {s : State} {t : Transaction} {rest : List Input} {i : Instr}
    (h : s.inputs = .op t :: rest) (hd : decode t = .ok i) : step s = exec i { s with inputs := rest } := by
  simp [step, h, hd]

theorem step_of_undecodable {s : State} {t : Transaction} {rest : List Input} {e : DecodeError}
    (h : s.inputs = .op t :: rest) (hd : decode t = .error e) :
    step s = .next (refuseTransaction t { s with inputs := rest }) := by
  simp [step, h, hd]

/-- The four things a step can be, for statements about the state it leaves. -/
theorem step_cases {s t : State} (h : step s = .next t) :
    t = s ∨ (∃ rest, t = hardwareReset { s with inputs := rest }) ∨
    (∃ rest i, exec i { s with inputs := rest } = .next t) ∨
    ∃ rest tr, t = refuseTransaction tr { s with inputs := rest } := by
  match hin : s.inputs with
  | [] =>
    rw [step_without_input hin, Host.Outcome.next.injEq] at h
    exact .inl h.symm
  | .hardwareReset :: rest =>
    rw [step_of_hardwareReset hin, Host.Outcome.next.injEq] at h
    exact .inr (.inl ⟨rest, h.symm⟩)
  | .op tr :: rest =>
    cases hd : decode tr with
    | ok i =>
      rw [step_of_decoded hin hd] at h
      exact .inr (.inr (.inl ⟨rest, i, h⟩))
    | error e =>
      rw [step_of_undecodable hin hd, Host.Outcome.next.injEq] at h
      exact .inr (.inr (.inr ⟨rest, tr, h.symm⟩))

/-! ## The store of RXB, register by register (42_deframer R174, Table X1) -/

/-- Where the byte goes, as one update: each RX register has its own range of positions. -/
theorem rxStore_eq (b : Byte) (s : State) : rxStore b s = { s with
    rxOp := if s.rxPos.toNat = 1 then b else s.rxOp
    rxSeq := if s.rxPos.toNat = 2 then b else s.rxSeq
    rxLen := if s.rxPos.toNat = 3 then insertByte s.rxLen 0 b
      else if s.rxPos.toNat = 4 then insertByte s.rxLen 1 b else s.rxLen
    rxPay := if 5 ≤ s.rxPos.toNat ∧ s.rxPos.toNat < 5 + s.rxLen.toNat then s.rxPay ++ [b] else s.rxPay
    rxCrc := if 5 + s.rxLen.toNat ≤ s.rxPos.toNat ∧ s.rxPos.toNat < 9 + s.rxLen.toNat then
      insertByte s.rxCrc (s.rxPos.toNat - 5 - s.rxLen.toNat) b else s.rxCrc } := by
  unfold rxStore
  dsimp only
  generalize s.rxPos.toNat = p
  generalize s.rxLen.toNat = n
  by_cases hheader : p < 5
  · have hpay : ¬ (5 ≤ p ∧ p < 5 + n) := by omega
    have hcrc : ¬ (5 + n ≤ p ∧ p < 9 + n) := by omega
    rw [if_neg hpay, if_neg hcrc]
    rcases (show p = 0 ∨ p = 1 ∨ p = 2 ∨ p = 3 ∨ p = 4 by omega) with rfl | rfl | rfl | rfl | rfl <;> rfl
  · have h0 : p ≠ 0 := by omega
    have h1 : p ≠ 1 := by omega
    have h2 : p ≠ 2 := by omega
    have h3 : p ≠ 3 := by omega
    have h4 : p ≠ 4 := by omega
    by_cases hpay : p < 5 + n
    · simp [h0, h1, h2, h3, h4, hpay, show 5 ≤ p by omega, show ¬ 5 + n ≤ p by omega]
    · simp [h0, h1, h2, h3, h4, hpay, show 5 + n ≤ p by omega]
      split_ifs <;> rfl

/-- The byte at position `9 + RX_LEN` completes the frame, no other does. -/
theorem rxCompletes_iff {s : State} :
    rxCompletes s = true ↔ 5 ≤ s.rxPos.toNat ∧ s.rxPos.toNat = 9 + s.rxLen.toNat := by
  simp [rxCompletes]

/-! ## What one operation can do -/

/-- `OpEffect i s t`: operation `i` may take `s` to `t`. One constructor per effect a rule gives; all the
refusals, and the operations that only answer, are `answered`. -/
inductive OpEffect : Instr → State → State → Prop where
  /-- One response and no other change: CSUM, RDST and every refusal; never SRST, nor a KEXC with a candidate. -/
  | answered {i : Instr} {s : State} (code : Byte) (value : Word) (hsrst : i ≠ .srst)
      (hkexc : i = .kexc → s.kexp = false) : OpEffect i s (respond code value s)
  /-- ENC emits the frames of its command (R152). -/
  | framed {s : State} (op : Byte) (data : List Byte) (seq : Byte) (count : Word) :
      OpEffect (.enc op data) s
        (respondOk count { s with tx := s.tx ++ encodeCommand op data (activeKey s), txSeq := seq })
  /-- KEXB emits its one frame and latches the candidate (R203). -/
  | latched {s : State} (key : Word) (hneg : s.neg = false) :
      OpEffect (.kexb key) s (respondOk 1 { s with
        tx := s.tx ++ [frameBytes (Config.opc .setCrcKey) 0 (le32 (wireValue key)) (activeKey s)]
        txSeq := 1, pkey := some key, kexp := true })
  /-- KEXC activates the candidate (R205). -/
  | activated {s : State} (hkexp : s.kexp = true) :
      OpEffect .kexc s (respondOk 0 { activate (keyBits s.pkey) s with pkey := none, kexp := false })
  /-- KEXA drops the candidate (R206). -/
  | aborted {s : State} : OpEffect .kexa s (respondOk 0 { s with pkey := none, kexp := false })
  /-- RXB completes a frame: its record is delivered (R174, R180). -/
  | delivered {s : State} (b : Byte) (code : Byte) (value : Word) (hdone : rxCompletes s = true) :
      OpEffect (.rxb b) s (respond code value (frameBoundary (recEmit (rxRecord s) s)))
  /-- RXB stores its byte and the position advances (R174). -/
  | stored {s : State} (b : Byte) (hdone : rxCompletes s = false) :
      OpEffect (.rxb b) s (respondOk 0 { rxStore b s with rxPos := s.rxPos + 1 })
  /-- RXE leaves the deframer at a frame boundary (R176). -/
  | bufferEnded {s : State} (code : Byte) (value : Word) :
      OpEffect .rxe s (respond code value (frameBoundary s))
  /-- SETV writes the switch (R220). -/
  | switched {s : State} (arg : Byte) :
      OpEffect (.setv arg) s (respondOk 0 { s with verifyEn := arg.getLsbD 0 })
  /-- SRST begins a new session (R222). -/
  | restarted {s : State} : OpEffect .srst s (respondOk 0 (resetSession s))

/-- The delivery gives one response whatever the verdict (R180). -/
theorem rxDeliver_eq_respond (s : State) :
    ∃ code value, rxDeliver s = respond code value (frameBoundary (recEmit (rxRecord s) s)) := by
  unfold rxDeliver
  dsimp only
  split <;> exact ⟨_, _, rfl⟩

/-- Every operation has one of the effects of `OpEffect`, in every state. -/
theorem exec_effect (i : Instr) (s : State) : ∃ t, exec i s = .next t ∧ OpEffect i s t := by
  cases i with
  | enc op data =>
    rcases exec_enc_cases op data s with ⟨_, h⟩ | ⟨_, _, h⟩ | ⟨_, _, _, _, h⟩
    · exact ⟨_, h, .answered _ _ (by simp) (by simp)⟩
    · exact ⟨_, h, .answered _ _ (by simp) (by simp)⟩
    · exact ⟨_, h, .framed _ _ _ _⟩
  | csum data => exact ⟨_, rfl, .answered _ _ (by simp) (by simp)⟩
  | kexb key =>
    rcases exec_kexb_cases key s with ⟨_, h⟩ | ⟨hneg, _, h⟩
    · exact ⟨_, h, .answered _ _ (by simp) (by simp)⟩
    · exact ⟨_, h, .latched key hneg⟩
  | kexc =>
    rcases exec_kexc_cases s with ⟨hkexp, h⟩ | ⟨hkexp, h⟩
    · exact ⟨_, h, .activated hkexp⟩
    · exact ⟨_, h, .answered _ _ (by simp) fun _ => hkexp⟩
  | kexa =>
    rcases exec_kexa_cases s with ⟨_, h⟩ | ⟨_, h⟩
    · exact ⟨_, h, .aborted⟩
    · exact ⟨_, h, .answered _ _ (by simp) (by simp)⟩
  | rxb b =>
    rcases exec_rxb_cases b s with ⟨hdone, h⟩ | ⟨hdone, h⟩
    · obtain ⟨code, value, hd⟩ := rxDeliver_eq_respond s
      exact ⟨_, h, hd ▸ .delivered b code value hdone⟩
    · exact ⟨_, h, .stored b hdone⟩
  | rxe =>
    rcases exec_rxe_cases s with ⟨_, h⟩ | ⟨_, h⟩ <;> exact ⟨_, h, .bufferEnded _ _⟩
  | setv arg =>
    rcases exec_setv_cases arg s with ⟨_, h⟩ | ⟨_, h⟩
    · exact ⟨_, h, .switched arg⟩
    · exact ⟨_, h, .answered _ _ (by simp) (by simp)⟩
  | rdst => exact ⟨_, rfl, .answered _ _ (by simp) (by simp)⟩
  | srst => exact ⟨_, rfl, .restarted⟩

/-- The inversion lemma of `exec`. -/
theorem effect_of_exec {i : Instr} {s t : State} (h : exec i s = .next t) : OpEffect i s t := by
  obtain ⟨u, hu, e⟩ := exec_effect i s
  rw [hu, Host.Outcome.next.injEq] at h
  exact h ▸ e

/-! ## Reset values (10_state R46, R281) -/

/-- An unkeyed state with nothing pending meets the keyring invariant. -/
theorem keyringInv_of_unkeyed {s : State} (hskey : s.skey = none) (hneg : s.neg = false) (hpkey : s.pkey = none)
    (hkexp : s.kexp = false) : KeyringInv s := by
  simp [KeyringInv, hskey, hneg, hpkey, hkexp]

/-- A deframer at a frame boundary meets its invariant, whatever the stale registers hold. -/
theorem deframerInv_of_boundary {s : State} (hpos : s.rxPos = 0) (hpay : s.rxPay = []) : DeframerInv s := by
  simp [DeframerInv, hpos, hpay]

@[simp] theorem activeKey_hardwareReset (s : State) : activeKey (hardwareReset s) = Config.keyDefault := rfl

/-- Settles O10: both resets are `resetSession`, and power-on is a literal. -/
theorem eachResetLeavesTheResetValues : Obligations.EachResetLeavesTheResetValues := by
  intro s rest hin
  refine ⟨_, _, step_of_hardwareReset hin, rfl, ?_⟩
  have hdefault : Config.keyDefault = 0x35769521#32 := rfl
  intro u hu
  simp only [List.mem_cons, List.not_mem_nil, or_false] at hu
  rcases hu with rfl | rfl | rfl
  · simp [hdefault]
  · simp [hdefault]
  · exact ⟨rfl, rfl, rfl, rfl, rfl, rfl, rfl, rfl, rfl, rfl⟩

/-- Settles O50: at reset nothing is keyed, the deframer stands at a boundary and the streams are empty. -/
theorem resetStateSatisfiesTheInvariant : Obligations.ResetStateSatisfiesTheInvariant := by
  intro op seq len crc
  have hinv (o q : Byte) (l : BitVec 16) (c : Word) :
      BlockInv { State.reset with rxOp := o, rxSeq := q, rxLen := l, rxCrc := c } :=
    ⟨keyringInv_of_unkeyed rfl rfl rfl rfl, deframerInv_of_boundary rfl rfl,
      List.forall_mem_nil _, List.forall_mem_nil _⟩
  exact ⟨hinv op seq len crc, hinv 0 0 0 0, by decide, rfl⟩

/-! ## The writers of each item (10_state R20, Table S1) -/

/-- Settles O48: each effect of `OpEffect` names its operation and what it writes. -/
theorem eachRegisterChangesOnlyByItsWriters : Obligations.EachRegisterChangesOnlyByItsWriters := by
  intro i s t h
  cases effect_of_exec h with
  | answered | framed | latched | activated | aborted | delivered | bufferEnded | switched | restarted => simp
  | stored => simp [rxStore_eq]

/-! ## The keyring (10_state R22 to R26) -/

/-- Every operation keeps the keyring invariant: the flags move with their registers, and KEXB latches only when NEG = 0. -/
theorem OpEffect.keyringInv {i : Instr} {s t : State} (e : OpEffect i s t) (h : KeyringInv s) : KeyringInv t := by
  obtain ⟨hneg, hkexp, hboth⟩ := h
  cases e with
  | answered | framed | delivered | bufferEnded | switched => exact ⟨hneg, hkexp, hboth⟩
  | stored => rw [rxStore_eq]; exact ⟨hneg, hkexp, hboth⟩
  | latched key hn => simpa [KeyringInv, hn] using hneg
  | activated => simp [KeyringInv]
  | aborted => simpa [KeyringInv] using hneg
  | restarted => exact keyringInv_of_unkeyed rfl rfl rfl rfl

/-- Once negotiated only SRST ends the session. -/
theorem OpEffect.neg_falls_iff {i : Instr} {s t : State} (e : OpEffect i s t) (hn : s.neg = true) :
    t.neg = false ↔ i = .srst := by
  cases e with
  | answered _ _ hsrst => simp [hn, hsrst]
  | framed | aborted | delivered | bufferEnded | switched => simp [hn]
  | latched key hneg => simp [hn] at hneg
  | activated => simp
  | stored => simp [rxStore_eq, hn]
  | restarted => simp

/-- Only a KEXC with a candidate negotiates. -/
theorem OpEffect.neg_rises_iff {i : Instr} {s t : State} (e : OpEffect i s t) (hn : s.neg = false) :
    t.neg = true ↔ i = .kexc ∧ s.kexp = true := by
  cases e with
  | answered _ _ _ hkexc => simpa [hn] using hkexc
  | framed | latched | aborted | delivered | bufferEnded | switched | restarted => simp [hn]
  | activated hkexp => simp [hkexp]
  | stored => simp [rxStore_eq, hn]

/-- In a keyed state nothing is pending, so no operation but SRST writes SKEY or NEG. -/
theorem OpEffect.keyed_kept {i : Instr} {s t : State} (e : OpEffect i s t) (h : KeyringInv s) (hn : s.neg = true)
    (hi : i ≠ .srst) : t.neg = true ∧ t.skey = s.skey := by
  obtain ⟨_, _, hboth⟩ := h
  cases e with
  | answered | framed | latched | aborted | delivered | bufferEnded | switched => exact ⟨by simp [hn], by simp⟩
  | activated hkexp => exact absurd ⟨hn, hkexp⟩ hboth
  | stored => simp [rxStore_eq, hn]
  | restarted => exact absurd rfl hi

/-- A keyed session keeps NEG and SKEY through every run of operations without SRST, and such a run completes. -/
theorem runOps_keyed_kept (ops : List Instr) (s : State) (h : KeyringInv s) (hn : s.neg = true)
    (hops : ∀ i ∈ ops, i ≠ .srst) : ∃ t, runOps ops s = .next t ∧ t.neg = true ∧ t.skey = s.skey := by
  induction ops generalizing s with
  | nil => exact ⟨s, rfl, hn, rfl⟩
  | cons i ops ih =>
    obtain ⟨hi, hrest⟩ := List.forall_mem_cons.1 hops
    obtain ⟨u, hu, e⟩ := exec_effect i s
    obtain ⟨hun, huk⟩ := e.keyed_kept h hn hi
    obtain ⟨t, ht, htn, htk⟩ := ih u (e.keyringInv h) hun hrest
    exact ⟨t, by rw [runOps, hu]; exact ht, htn, htk.trans huk⟩

/-- Settles O39: the two edges of NEG by the effects, the runs by induction with the keyring invariant. -/
theorem keyedIsTerminalForTheSession : Obligations.KeyedIsTerminalForTheSession := by
  refine ⟨fun i s t h => ⟨(effect_of_exec h).neg_falls_iff, (effect_of_exec h).neg_rises_iff⟩, ?_⟩
  intro ops s hinv hn hops
  obtain ⟨t, ht, htn, htk⟩ := runOps_keyed_kept ops s hinv hn hops
  exact ⟨t, ht, htn, htk, activeKey_congr (htn.trans hn.symm) htk⟩

/-! ## The deframer (10_state R36, R38) -/

/-- RX_POS is at most `9 + RX_LEN`, so it is far from wrapping. -/
theorem DeframerInv.rxPos_le {s : State} (h : DeframerInv s) : s.rxPos.toNat ≤ 65544 := by
  obtain ⟨_, hbody⟩ := h
  have hlen := s.rxLen.isLt
  by_cases hp : 5 ≤ s.rxPos.toNat
  · obtain ⟨hle, _⟩ := hbody hp
    omega
  · omega

/-- The payload buffer holds at most RX_LEN bytes, so its capacity is enough. -/
theorem DeframerInv.rxPay_length_le {s : State} (h : DeframerInv s) : s.rxPay.length ≤ Config.rxCap := by
  obtain ⟨hheader, hbody⟩ := h
  have hlen := s.rxLen.isLt
  have hcap : Config.rxCap = 65535 := rfl
  by_cases hp : 5 ≤ s.rxPos.toNat
  · obtain ⟨_, hpay⟩ := hbody hp
    omega
  · simp [hheader (by omega)]

/-- An advance from a position the invariant allows does not wrap. -/
theorem DeframerInv.rxPos_succ_toNat {s : State} (h : DeframerInv s) : (s.rxPos + 1).toNat = s.rxPos.toNat + 1 := by
  have hle := h.rxPos_le
  rw [BitVec.toNat_add]
  simp only [BitVec.ofNat_eq_ofNat, BitVec.toNat_ofNat]
  omega

/-- A frame that completes has all the payload its length declares. -/
theorem DeframerInv.rxPay_length_of_completes {s : State} (h : DeframerInv s) (hdone : rxCompletes s = true) :
    s.rxPay.length = s.rxLen.toNat := by
  obtain ⟨_, hbody⟩ := h
  obtain ⟨hp, hlast⟩ := rxCompletes_iff.1 hdone
  obtain ⟨_, hpay⟩ := hbody hp
  omega

/-- Storing a byte that does not complete the frame keeps the deframer invariant: in the header RX_PAY stays empty, then it grows
with RX_POS up to RX_LEN bytes, then it stays. -/
theorem deframerInv_stored (b : Byte) {s : State} (h : DeframerInv s) (hdone : rxCompletes s = false) :
    DeframerInv { rxStore b s with rxPos := s.rxPos + 1 } := by
  have hsucc := h.rxPos_succ_toNat
  obtain ⟨hheader, hbody⟩ := h
  have hnot : ¬ (5 ≤ s.rxPos.toNat ∧ s.rxPos.toNat = 9 + s.rxLen.toNat) := by
    rw [← rxCompletes_iff, hdone]; simp
  rw [rxStore_eq]
  dsimp only [DeframerInv]
  rw [hsucc]
  by_cases hp : s.rxPos.toNat < 5
  · have hempty := hheader hp
    simp only [hempty, show ¬ 5 ≤ s.rxPos.toNat by omega, false_and, if_false, List.length_nil]
    exact ⟨fun _ => trivial, fun h5 => ⟨by omega, by omega⟩⟩
  · obtain ⟨hle, hpay⟩ := hbody (by omega)
    rw [if_neg (show s.rxPos.toNat ≠ 3 by omega), if_neg (show s.rxPos.toNat ≠ 4 by omega)]
    refine ⟨fun h5 => absurd h5 (by omega), fun _ => ⟨by omega, ?_⟩⟩
    split_ifs with hin
    · rw [List.length_append, List.length_singleton]; omega
    · omega

/-- Every operation keeps the deframer invariant. -/
theorem OpEffect.deframerInv {i : Instr} {s t : State} (e : OpEffect i s t) (h : DeframerInv s) : DeframerInv t := by
  cases e with
  | answered | framed | latched | activated | aborted | switched => exact h
  | delivered | bufferEnded | restarted => exact deframerInv_of_boundary rfl rfl
  | stored b hdone => exact deframerInv_stored b h hdone

/-- Settles O52: the bounds are the deframer invariant's; a completing byte returns to 0, any other advances by one. -/
theorem receivePositionAndBufferStayInRange : Obligations.ReceivePositionAndBufferStayInRange := by
  rintro s ⟨_, hdef, _⟩
  refine ⟨hdef.rxPos_le, hdef.rxPay_length_le, fun b t h => ?_⟩
  rcases exec_rxb_cases b s with ⟨_, hb⟩ | ⟨_, hb⟩ <;> rw [hb, Host.Outcome.next.injEq] at h <;> subst h
  · obtain ⟨r, hr, _⟩ := rxDeliver_frame s
    exact .inl (by rw [hr])
  · exact .inr hdef.rxPos_succ_toNat

/-! ## The output streams (20_memory R62, R64) -/

/-- The length field of a frame reads back as the length of its chunk (R92, R151). -/
theorem memRead_frameBytes_length (op seq : Byte) (chunk : List Byte) (key : Word) (h : chunk.length ≤ 65535) :
    memRead (frameBytes op seq chunk key) 3 2 = chunk.length := by
  have hsplit : frameBytes op seq chunk key = [Config.som, op, seq] ++
      (le16 (BitVec.ofNat 16 chunk.length) ++ (chunk ++ le32 (kcrc key chunk) ++ [Config.eom])) := by
    simp [frameBytes]
  calc memRead (frameBytes op seq chunk key) 3 2
      = memRead (le16 (BitVec.ofNat 16 chunk.length) ++ (chunk ++ le32 (kcrc key chunk) ++ [Config.eom])) 0 2 := by
        rw [hsplit]; exact memRead_append _ _ 0 2
    _ = leValue (le16 (BitVec.ofNat 16 chunk.length)) := by
        rw [memRead, List.drop_zero, List.take_left' (le16_length _)]
    _ = chunk.length := by rw [leValue_le16, BitVec.toNat_ofNat]; omega

/-- A frame of a chunk of at most MAX_CHUNK bytes is one the framer may emit (R92, R93, R95). -/
theorem framerFrame_frameBytes (op seq : Byte) (chunk : List Byte) (key : Word) (h : chunk.length ≤ Config.maxChunk) :
    FramerFrame (frameBytes op seq chunk key) := by
  have hmax : Config.maxChunk = 2016 := rfl
  have hread := memRead_frameBytes_length op seq chunk key (by omega)
  refine ⟨rfl, ?_, ?_, by omega⟩
  · rw [← List.getLast?_eq_getElem?, frameBytes, List.getLast?_concat]; rfl
  · rw [hread]; simp [frameBytes]; omega

/-- Every frame of an encoded command is one the framer may emit. -/
theorem framerFrame_of_mem_encodeCommand {op : Byte} {data : List Byte} {key : Word} {f : Frame}
    (hf : f ∈ encodeCommand op data key) : FramerFrame f := by
  rw [encodeCommand_eq, List.mem_map] at hf
  obtain ⟨k, _, rfl⟩ := hf
  exact framerFrame_frameBytes _ _ _ _ (List.length_take_le _ _)

/-- Every operation appends only whole frames and whole records; a record is whole because its frame has all its payload. -/
theorem OpEffect.streamsInv {i : Instr} {s t : State} (e : OpEffect i s t) (hdef : DeframerInv s) (h : StreamsInv s) :
    StreamsInv t := by
  obtain ⟨htx, hrec⟩ := h
  cases e with
  | answered | activated | aborted | bufferEnded | switched | restarted => exact ⟨htx, hrec⟩
  | framed => exact ⟨List.forall_mem_append.2 ⟨htx, fun f hf => framerFrame_of_mem_encodeCommand hf⟩, hrec⟩
  | latched =>
    exact ⟨List.forall_mem_append.2 ⟨htx, List.forall_mem_singleton.2
      (framerFrame_frameBytes _ _ _ _ (by simp [Config.maxChunk]))⟩, hrec⟩
  | delivered b _ _ hdone =>
    exact ⟨htx, List.forall_mem_append.2 ⟨hrec, List.forall_mem_singleton.2 (hdef.rxPay_length_of_completes hdone)⟩⟩
  | stored => rw [rxStore_eq]; exact ⟨htx, hrec⟩

/-! ## The invariant of the machine -/

/-- Every operation keeps the invariant. -/
theorem OpEffect.blockInv {i : Instr} {s t : State} (e : OpEffect i s t) (h : BlockInv s) : BlockInv t := by
  obtain ⟨hkey, hdef, hstr⟩ := h
  exact ⟨e.keyringInv hkey, e.deframerInv hdef, e.streamsInv hdef hstr⟩

/-- A reset establishes the keyring and deframer parts and leaves the streams. -/
theorem blockInv_resetSession {s : State} (h : StreamsInv s) : BlockInv (resetSession s) :=
  ⟨keyringInv_of_unkeyed rfl rfl rfl rfl, deframerInv_of_boundary rfl rfl, h⟩

/-- Settles O51: by what the step does with its input; taking the input away and answering touch no part of the invariant. -/
theorem everyStepKeepsTheInvariant : Obligations.EveryStepKeepsTheInvariant := by
  intro s t hinv h
  rcases step_cases h with rfl | ⟨rest, rfl⟩ | ⟨rest, i, hexec⟩ | ⟨rest, tr, rfl⟩
  · exact hinv
  · obtain ⟨_, _, hstr⟩ := hinv
    exact blockInv_resetSession hstr
  · exact (effect_of_exec hexec).blockInv hinv
  · exact hinv

/-! ## The stale bits of RX_OP, RX_SEQ, RX_LEN and RX_CRC (10_state R37, R39) -/

/-- `s` with other contents of the four registers that reset leaves unspecified. -/
def withRxRegisters (op seq : Byte) (len : BitVec 16) (crc : Word) (s : State) : State :=
  { s with rxOp := op, rxSeq := seq, rxLen := len, rxCrc := crc }

/-- Two states that differ in nothing but stale bits differ in nothing but these four registers. -/
theorem SameUpToStale.eq_withRxRegisters {s t : State} (h : SameUpToStale s t) :
    t = withRxRegisters t.rxOp t.rxSeq t.rxLen t.rxCrc s := by
  rw [withRxRegisters, h.inputs, h.skey, h.neg, h.pkey, h.kexp, h.verifyEn, h.txSeq, h.rxPos, h.rxPay, h.responses,
    h.tx, h.records]

/-- At a frame boundary every bit of the four registers is stale. -/
theorem sameUpToStale_of_boundary {s : State} (hpos : s.rxPos = 0) (op seq : Byte) (len : BitVec 16) (crc : Word) :
    SameUpToStale s (withRxRegisters op seq len crc s) := by
  have hzero : s.rxPos.toNat = 0 := by rw [hpos]; rfl
  constructor
  case rxOp | rxSeq | rxLenLow | rxLenHigh => intro hp; omega
  case rxCrc => intro j _ hp; omega
  all_goals rfl

/-- What is stale depends on RX_POS and the four registers only. -/
theorem SameUpToStale.of_rx_kept {s s' : State} {op seq : Byte} {len : BitVec 16} {crc : Word}
    (h : SameUpToStale s (withRxRegisters op seq len crc s)) (hpos : s'.rxPos = s.rxPos) (hop : s'.rxOp = s.rxOp)
    (hseq : s'.rxSeq = s.rxSeq) (hlen : s'.rxLen = s.rxLen) (hcrc : s'.rxCrc = s.rxCrc) :
    SameUpToStale s' (withRxRegisters op seq len crc s') := by
  constructor
  case rxOp => rw [hpos, hop]; exact h.rxOp
  case rxSeq => rw [hpos, hseq]; exact h.rxSeq
  case rxLenLow => rw [hpos, hlen]; exact h.rxLenLow
  case rxLenHigh => rw [hpos, hlen]; exact h.rxLenHigh
  case rxCrc => rw [hpos, hlen, hcrc]; exact h.rxCrc
  all_goals rfl

/-- A 16-bit register is its two bytes. -/
theorem eq_of_two_bytes_eq {v w : BitVec 16} (hlow : v.extractLsb' 0 8 = w.extractLsb' 0 8)
    (hhigh : v.extractLsb' 8 8 = w.extractLsb' 8 8) : v = w := by
  have hv := v.isLt
  have hw := w.isLt
  have hl := congrArg BitVec.toNat hlow
  have hh := congrArg BitVec.toNat hhigh
  simp only [BitVec.extractLsb'_toNat, Nat.shiftRight_eq_div_pow] at hl hh
  apply BitVec.eq_of_toNat_eq
  omega

/-- Past the header the length is written, and both states agree on it. -/
theorem SameUpToStale.rxLen_eq {s t : State} (h : SameUpToStale s t) (hp : 4 < s.rxPos.toNat) : s.rxLen = t.rxLen :=
  eq_of_two_bytes_eq (h.rxLenLow (by omega)) (h.rxLenHigh hp)

/-- When a frame completes, nothing is stale. -/
theorem SameUpToStale.eq_of_completes {s t : State} (h : SameUpToStale s t) (hdone : rxCompletes s = true) : s = t := by
  obtain ⟨hp, hlast⟩ := rxCompletes_iff.1 hdone
  have hcrc : s.rxCrc = t.rxCrc := eq_of_bytes_eq fun j hj => h.rxCrc j hj (by omega) (by omega)
  rw [h.eq_withRxRegisters, withRxRegisters, ← h.rxOp (by omega), ← h.rxSeq (by omega), ← h.rxLen_eq (by omega),
    ← hcrc]

/-- Whether a byte completes a frame is decided by no stale bit. -/
theorem SameUpToStale.rxCompletes_eq {s t : State} (h : SameUpToStale s t) : rxCompletes s = rxCompletes t := by
  by_cases hp : 5 ≤ s.rxPos.toNat
  · simp only [rxCompletes, h.rxPos, h.rxLen_eq (show 4 < s.rxPos.toNat by omega)]
  · simp [rxCompletes, ← h.rxPos, hp]

theorem SameUpToStale.refl (s : State) : SameUpToStale s s := by
  constructor
  all_goals intros; rfl

/-- An operation other than RXB reads and writes none of the four registers. -/
theorem exec_withRxRegisters {i : Instr} (hi : ∀ b, i ≠ .rxb b) {s s' : State} (h : exec i s = .next s')
    (op seq : Byte) (len : BitVec 16) (crc : Word) :
    exec i (withRxRegisters op seq len crc s) = .next (withRxRegisters op seq len crc s') := by
  cases i with
  | rxb b => exact absurd rfl (hi b)
  | csum | rdst | srst => cases h; rfl
  | enc | kexb | kexc | kexa | rxe | setv =>
    cases h
    simp only [exec, execEnc, encUnder, execKexb, execKexc, execKexa, execRxe, execSetv,
      apply_ite (withRxRegisters op seq len crc)]
    rfl

/-- An operation other than RXB leaves the four registers, and RX_POS unless it returns to a frame boundary. -/
theorem OpEffect.rx_kept {i : Instr} {s t : State} (e : OpEffect i s t) (hi : ∀ b, i ≠ .rxb b) :
    (t.rxPos = s.rxPos ∨ t.rxPos = 0) ∧ t.rxOp = s.rxOp ∧ t.rxSeq = s.rxSeq ∧ t.rxLen = s.rxLen ∧
      t.rxCrc = s.rxCrc := by
  cases e with
  | answered | framed | latched | activated | aborted | switched => exact ⟨.inl rfl, rfl, rfl, rfl, rfl⟩
  | bufferEnded | restarted => exact ⟨.inr rfl, rfl, rfl, rfl, rfl⟩
  | delivered b | stored b => exact absurd rfl (hi b)

/-- The two bytes of RX_LEN after the write of one of them (R174). -/
theorem insertByte_length_bytes (v : BitVec 16) (b : Byte) :
    (insertByte v 0 b).extractLsb' 0 8 = b ∧ (insertByte v 1 b).extractLsb' 0 8 = v.extractLsb' 0 8 ∧
      (insertByte v 1 b).extractLsb' 8 8 = b :=
  ⟨insertByte_extract v 0 0 b (by omega) (by omega), insertByte_extract v 1 0 b (by omega) (by omega),
    insertByte_extract v 1 1 b (by omega) (by omega)⟩

/-- A stored byte makes the bits it lands on equal, and the advance of RX_POS makes no other bits count as written. -/
theorem SameUpToStale.stored (b : Byte) {s t : State} (h : SameUpToStale s t) :
    SameUpToStale (respondOk 0 { rxStore b s with rxPos := s.rxPos + 1 })
      (respondOk 0 { rxStore b t with rxPos := t.rxPos + 1 }) := by
  have hback (k : Nat) (hk : k < (s.rxPos + 1).toNat) : k ≤ s.rxPos.toNat := by
    have := (BitVec.toNat_add s.rxPos 1).trans_le (Nat.mod_le _ _)
    exact Nat.le_of_lt_succ (hk.trans_le this)
  rw [rxStore_eq, rxStore_eq, ← h.rxPos]
  constructor
  case inputs => exact h.inputs
  case skey => exact h.skey
  case neg => exact h.neg
  case pkey => exact h.pkey
  case kexp => exact h.kexp
  case verifyEn => exact h.verifyEn
  case txSeq => exact h.txSeq
  case rxPos => rfl
  case responses => simp [h.responses]
  case tx => exact h.tx
  case records => exact h.records
  case rxPay =>
    by_cases hp : 5 ≤ s.rxPos.toNat
    · simp [h.rxPay, h.rxLen_eq (by omega)]
    · simp [hp, h.rxPay]
  case rxOp =>
    intro hp
    have hle := hback _ hp
    by_cases hat : s.rxPos.toNat = 1
    · simp [hat]
    · simp [hat, h.rxOp (by omega)]
  case rxSeq =>
    intro hp
    have hle := hback _ hp
    by_cases hat : s.rxPos.toNat = 2
    · simp [hat]
    · simp [hat, h.rxSeq (by omega)]
  case rxLenLow =>
    intro hp
    have hle := hback _ hp
    by_cases hat : s.rxPos.toNat = 3
    · simp [hat, insertByte_length_bytes]
    · have hlow := h.rxLenLow (by omega)
      by_cases hat' : s.rxPos.toNat = 4
      · simp [hat', insertByte_length_bytes, hlow]
      · simp [hat, hat', hlow]
  case rxLenHigh =>
    intro hp
    have hle := hback _ hp
    by_cases hat : s.rxPos.toNat = 4
    · simp [hat, insertByte_length_bytes]
    · simp [hat, show s.rxPos.toNat ≠ 3 by omega, h.rxLenHigh (by omega)]
  case rxCrc =>
    intro j hj hp hwritten
    have hle := hback _ hp
    have hle' := hback _ hwritten
    have hbody : 4 < s.rxPos.toNat := by omega
    have hlen := h.rxLen_eq hbody
    have h3 : s.rxPos.toNat ≠ 3 := by omega
    have h4 : s.rxPos.toNat ≠ 4 := by omega
    simp only [respondOk_rxLen, respondOk_rxCrc, if_neg h3, if_neg h4, ← hlen] at hle' ⊢
    split_ifs with hin
    · rw [insertByte_extract _ _ _ _ (by omega) (by omega), insertByte_extract _ _ _ _ (by omega) (by omega)]
      split_ifs with heq
      · rfl
      · exact h.rxCrc j hj hbody (by omega)
    · exact h.rxCrc j hj hbody (by omega)

/-- Every operation takes two states that differ in stale bits only to two such states. -/
theorem SameUpToStale.kept_by_exec (i : Instr) {s t : State} (h : SameUpToStale s t) :
    ∃ s' t', exec i s = .next s' ∧ exec i t = .next t' ∧ SameUpToStale s' t' := by
  by_cases hi : ∀ b, i ≠ .rxb b
  · obtain ⟨s', hs, e⟩ := exec_effect i s
    obtain ⟨hpos, hop, hseq, hlen, hcrc⟩ := e.rx_kept hi
    obtain ⟨op, seq, len, crc, rfl⟩ : ∃ op seq len crc, t = withRxRegisters op seq len crc s :=
      ⟨_, _, _, _, h.eq_withRxRegisters⟩
    refine ⟨s', _, hs, exec_withRxRegisters hi hs _ _ _ _, ?_⟩
    rcases hpos with hpos | hpos
    · exact h.of_rx_kept hpos hop hseq hlen hcrc
    · exact sameUpToStale_of_boundary hpos _ _ _ _
  · obtain ⟨b, rfl⟩ : ∃ b, i = .rxb b := by simpa using hi
    rcases exec_rxb_cases b s with ⟨hdone, hs⟩ | ⟨hdone, hs⟩
    · obtain rfl := h.eq_of_completes hdone
      exact ⟨_, _, hs, hs, .refl _⟩
    · rcases exec_rxb_cases b t with ⟨hdone', _⟩ | ⟨_, ht⟩
      · rw [← h.rxCompletes_eq, hdone] at hdone'
        exact absurd hdone' (by simp)
      · exact ⟨_, _, hs, ht, h.stored b⟩

/-- Settles O53: stale bits stay stale through each kind of step; reset states stand at a frame boundary. -/
theorem staleReceiveBitsAreNeverRead : Obligations.StaleReceiveBitsAreNeverRead := by
  refine ⟨fun s t h => ?_, fun ins op seq len crc => sameUpToStale_of_boundary rfl op seq len crc⟩
  match hs : s.inputs with
  | [] => exact ⟨s, t, step_without_input hs, step_without_input (h.inputs ▸ hs), h⟩
  | .hardwareReset :: rest =>
    refine ⟨_, _, step_of_hardwareReset hs, step_of_hardwareReset (h.inputs ▸ hs), ?_⟩
    rw [h.eq_withRxRegisters]
    exact sameUpToStale_of_boundary rfl _ _ _ _
  | .op tr :: rest =>
    have hrest : SameUpToStale { s with inputs := rest } { t with inputs := rest } := { h with inputs := rfl }
    cases hd : decode tr with
    | ok i =>
      rw [step_of_decoded hs hd, step_of_decoded (h.inputs ▸ hs) hd]
      exact hrest.kept_by_exec i
    | error e =>
      refine ⟨_, _, step_of_undecodable hs hd, step_of_undecodable (h.inputs ▸ hs) hd, ?_⟩
      exact { hrest with responses := by simp [h.responses] }

end Sys2Proof.Machine

/-! PROOFS of the family 20_memory: what a step takes from the command port and appends to the output streams (20_memory R61, R62,
R64), and the operations that repeat without effect (R70). -/

namespace Sys2Proof.Machine

/-! ## One operation on the ports -/

/-- No operation takes from the command port; only the step around it does (R61). -/
theorem OpEffect.inputs_kept {i : Instr} {s t : State} (e : OpEffect i s t) : t.inputs = s.inputs := by
  cases e with
  | answered | framed | latched | activated | aborted | delivered | bufferEnded | switched | restarted => simp
  | stored => simp [rxStore_eq]

/-- Every operation appends to the response port; ENC and KEXB append to the TX stream too, a completing RXB to the REC stream. -/
theorem OpEffect.streamsGrow {i : Instr} {s t : State} (e : OpEffect i s t) : StreamsGrow s t := by
  cases e with
  | answered | activated | aborted | bufferEnded | switched | restarted =>
    exact ⟨List.prefix_append _ _, List.prefix_rfl, List.prefix_rfl⟩
  | framed | latched => exact ⟨List.prefix_append _ _, List.prefix_append _ _, List.prefix_rfl⟩
  | delivered => exact ⟨List.prefix_append _ _, List.prefix_rfl, List.prefix_append _ _⟩
  | stored =>
    rw [rxStore_eq]
    exact ⟨List.prefix_append _ _, List.prefix_rfl, List.prefix_rfl⟩

/-! ## The step (R61, R62, R64, R74) -/

/-- Settles O7: the equation of `step` for a transaction that decodes. -/
theorem stepRunsTheDecodedOperation : Obligations.StepRunsTheDecodedOperation :=
  fun _ _ _ _ hin hd => step_of_decoded hin hd

/-- Settles O49: by the input the step takes; an operation that runs grows the streams by its effect. -/
theorem noStepRetractsAnOutput : Obligations.NoStepRetractsAnOutput := by
  intro s
  match hin : s.inputs with
  | [] =>
    exact ⟨s, step_without_input hin, ⟨List.prefix_rfl, List.prefix_rfl, List.prefix_rfl⟩, hin⟩
  | .hardwareReset :: rest =>
    exact ⟨_, step_of_hardwareReset hin, ⟨List.prefix_rfl, List.prefix_rfl, List.prefix_rfl⟩, rfl⟩
  | .op tr :: rest =>
    cases hd : decode tr with
    | ok i =>
      obtain ⟨t, ht, e⟩ := exec_effect i { s with inputs := rest }
      exact ⟨t, (step_of_decoded hin hd).trans ht, e.streamsGrow, e.inputs_kept⟩
    | error err =>
      exact ⟨_, step_of_undecodable hin hd, ⟨List.prefix_append _ _, List.prefix_rfl, List.prefix_rfl⟩, rfl⟩

/-! ## Repeated operations (R70) -/

/-- SRST in every state (44_system_ops R222). -/
theorem exec_srst (s : State) : exec .srst s = .next (respondOk 0 (resetSession s)) := rfl

/-- SETV with a legal argument (44_system_ops R220). -/
theorem exec_setv_of_legal {arg : Byte} (harg : arg.toNat ≤ 1) (s : State) :
    exec (.setv arg) s = .next (respondOk 0 { s with verifyEn := arg.getLsbD 0 }) := by
  rcases exec_setv_cases arg s with ⟨_, h⟩ | ⟨hbad, _⟩
  · exact h
  · exact absurd harg (Nat.not_le_of_lt hbad)

/-- A second session reset finds every register already at its reset value. -/
theorem resetSession_after_reset (v : Word) (s : State) :
    resetSession (respondOk v (resetSession s)) = respondOk v (resetSession s) := rfl

/-- Settles O43: the second run writes the values the first left, so only its response is new. -/
theorem setvAndSrstAreIdempotent : Obligations.SetvAndSrstAreIdempotent := by
  rintro s i (rfl | ⟨arg, rfl, harg⟩)
  · refine ⟨_, ⟨0, 0⟩, exec_srst s, ?_⟩
    rw [exec_srst, resetSession_after_reset]
    rfl
  · exact ⟨_, ⟨0, 0⟩, exec_setv_of_legal harg s, exec_setv_of_legal harg _⟩

end Sys2Proof.Machine

/-! PROOFS of the family 30_encoding: decoder and encoder are inverse to each other, Table H3 is the decoder's domain (R100 to R104), the marker bytes and the protocol opcodes (R95 to R97), and the one response of each operation (R101). -/

namespace Sys2Proof

/-! ## The fields of a command word (30_encoding R100, Table H1) -/

section
variable {n : Word} (hn : n < 16#32) (a : Byte)
include hn

/-- An operation number is its own OPN field, zero-extended. -/
theorem setWidth_setWidth_of_lt : (n.setWidth 4).setWidth 32 = n := by
  have hlt : n.toNat < 16 := hn
  apply BitVec.eq_of_toNat_eq
  simp only [BitVec.toNat_setWidth]
  omega

@[simp] theorem opnOf_commandWord : opnOf (commandWord n a) = n.setWidth 4 := by
  simpa only [setWidth_setWidth_of_lt hn] using (commandWord_fields (n.setWidth 4) a).1

@[simp] theorem arg8Of_commandWord : arg8Of (commandWord n a) = a := by
  simpa only [setWidth_setWidth_of_lt hn] using (commandWord_fields (n.setWidth 4) a).2.1

@[simp] theorem rsv0Of_commandWord : rsv0Of (commandWord n a) = 0 := by
  simpa only [setWidth_setWidth_of_lt hn] using (commandWord_fields (n.setWidth 4) a).2.2.1

@[simp] theorem rsv1Of_commandWord : rsv1Of (commandWord n a) = 0 := by
  simpa only [setWidth_setWidth_of_lt hn] using (commandWord_fields (n.setWidth 4) a).2.2.2

end

/-- A word is determined by its four fields. -/
theorem commandWord_of_fields {cw : Word} {k : Nat} {a : Byte} (h0 : rsv0Of cw = 0) (h1 : rsv1Of cw = 0)
    (ho : (opnOf cw).toNat = k) (ha : arg8Of cw = a) : commandWord (BitVec.ofNat 32 k) a = cw := by
  rw [← ho, ← ha, BitVec.ofNat_toNat]
  exact (eq_commandWord_of_reserved_zero cw h0 h1).symm

/-- The decoder's test of SETV's argument: bits 7:1 are zero (44_system_ops R220). -/
theorem argBits_eq_zero_iff (a : Byte) : a.extractLsb' 1 7 = 0#7 ↔ a.toNat ≤ 1 := by
  have hlt := a.isLt
  rw [← BitVec.toNat_inj, BitVec.extractLsb'_toNat, Nat.shiftRight_eq_div_pow, BitVec.toNat_ofNat]
  omega

/-- The same test as the mask of SETV's row makes it. -/
theorem setvMask_and_eq_zero_iff (a : Byte) : 0xFE#8 &&& a = 0#8 ↔ a.extractLsb' 1 7 = 0#7 := by
  revert a
  decide

/-! ## Decode and encode are inverse (R100, R103, R104) -/

theorem decode_encode {i : Instr} (h : i.wf = true) : decode (encode i) = .ok i := by
  cases i with
  | enc | csum | kexb | kexc | kexa | rxb | rxe | rdst | srst => simp [decode, encode]
  | setv arg =>
    have hbits := (argBits_eq_zero_iff arg).2 (by simpa [Instr.wf] using h)
    simp [decode, encode, hbits]

/-- The inversion lemma of `decode`: each OPN's conditions leave no freedom in the transaction. Case `h_k` is OPN k. -/
theorem wf_and_encode_of_decode {t : Transaction} {i : Instr} (h : decode t = .ok i) :
    i.wf = true ∧ encode i = t := by
  obtain ⟨cw, words, data⟩ := t
  simp only [decode] at h
  split at h
  · cases h
  next hrsv =>
    obtain ⟨h0, h1⟩ := not_or.1 hrsv
    have hcw {k a} := commandWord_of_fields (k := k) (a := a) (not_not.1 h0) (not_not.1 h1)
    split at h <;> simp only [acceptIf_eq_ok, beq_iff_eq, fits_n, fits_b, fits_w, fits_d, reduceCtorEq] at h
    case h_1 ho =>
      obtain ⟨-, rfl, rfl⟩ := h
      exact ⟨rfl, by rw [encode, hcw ho rfl]⟩
    case h_2 ho =>
      obtain ⟨ha, rfl, rfl⟩ := h
      exact ⟨rfl, by rw [encode, hcw ho ha]⟩
    case h_3 ho =>
      obtain ⟨ha, ⟨hlen, rfl⟩, rfl⟩ := h
      obtain ⟨w, rfl⟩ := List.length_eq_one_iff.1 hlen
      exact ⟨rfl, by rw [encode, hcw ho ha]; rfl⟩
    case h_4 ho | h_5 ho | h_7 ho | h_9 ho | h_10 ho =>
      obtain ⟨ha, ⟨rfl, rfl⟩, rfl⟩ := h
      exact ⟨rfl, by rw [encode, hcw ho ha]⟩
    case h_6 ho =>
      obtain ⟨-, ⟨rfl, rfl⟩, rfl⟩ := h
      exact ⟨rfl, by rw [encode, hcw ho rfl]⟩
    case h_8 ho =>
      obtain ⟨hbits, ⟨rfl, rfl⟩, rfl⟩ := h
      exact ⟨by simpa [Instr.wf] using (argBits_eq_zero_iff _).1 hbits, by rw [encode, hcw ho rfl]⟩

/-- Settles O1: the fields of the encoded word select the operation's own arm of the decoder. -/
theorem decodeOfEncodeIsTheOperation : Obligations.DecodeOfEncodeIsTheOperation :=
  fun _ hwf => decode_encode hwf

/-- Settles O2, by the inversion of the decoder. -/
theorem decodedTransactionIsTheEncodingOfItsOperation :
    Obligations.DecodedTransactionIsTheEncodingOfItsOperation :=
  fun _ _ hd => wf_and_encode_of_decode hd

/-! ## Table H3 (R103, R104) -/

/-- A row of Table H3 selects the words with its OPN, the reserved bits zero, and no ARG8 bit set that its mask covers. -/
theorem selectedBy_iff {r : OpRow} (hr : r ∈ opTable) (cw : Word) : r.selectedBy cw = true ↔
    rsv0Of cw = 0 ∧ rsv1Of cw = 0 ∧ r.value.extractLsb' 0 4 = opnOf cw ∧
      r.mask.extractLsb' 8 8 &&& arg8Of cw = 0 := by
  by_cases hrsv : rsv0Of cw = 0 ∧ rsv1Of cw = 0
  · obtain ⟨h0, h1⟩ := hrsv
    have hsel := selectedBy_commandWord (opnOf cw) (arg8Of cw) r hr
    rw [← eq_commandWord_of_reserved_zero cw h0 h1] at hsel
    simp [hsel, h0, h1]
  · have hsel := no_row_of_reserved cw (not_and_or.1 hrsv) r hr
    simp only [hsel, Bool.false_eq_true, false_iff]
    exact fun h => hrsv ⟨h.1, h.2.1⟩

/-- Settles O4: both rows have the word's OPN, and Table H3 has one row for each OPN. -/
theorem noCommandWordSelectsTwoRows : Obligations.NoCommandWordSelectsTwoRows := by
  intro cw r₁ r₂ hr₁ hr₂ hsel₁ hsel₂
  obtain ⟨-, -, hopn₁, -⟩ := (selectedBy_iff hr₁ cw).1 hsel₁
  obtain ⟨-, -, hopn₂, -⟩ := (selectedBy_iff hr₂ cw).1 hsel₂
  have hunique : ∀ r ∈ opTable, ∀ r' ∈ opTable,
      r.value.extractLsb' 0 4 = r'.value.extractLsb' 0 4 → r = r' := by decide
  exact hunique r₁ hr₁ r₂ hr₂ (hopn₁.trans hopn₂.symm)

/-- The encoder writes only legal transactions. -/
theorem legal_encode {i : Instr} (h : i.wf = true) : (encode i).legal = true := by
  cases i with
  | enc op data => exact Laws.EncodedIsLegal.enc op data h
  | csum data => exact Laws.EncodedIsLegal.csum data h
  | kexb key => exact Laws.EncodedIsLegal.kexb key h
  | rxb b => exact Laws.EncodedIsLegal.rxb b h
  | setv arg => exact Laws.EncodedIsLegal.setv arg h
  | kexc | kexa | rxe | rdst | srst => rfl

/-- A legal transaction in terms of its fields: Table H3, row by row. -/
theorem legal_iff_fields {t : Transaction} : t.legal = true ↔
    rsv0Of t.cw = 0 ∧ rsv1Of t.cw = 0 ∧ ∃ r ∈ opTable, r.value.extractLsb' 0 4 = opnOf t.cw ∧
      r.mask.extractLsb' 8 8 &&& arg8Of t.cw = 0 ∧ r.format.fits t = true := by
  rw [legal_iff]
  constructor
  · rintro ⟨r, hr, hsel, hfits⟩
    obtain ⟨h0, h1, hopn, harg⟩ := (selectedBy_iff hr _).1 hsel
    exact ⟨h0, h1, r, hr, hopn, harg, hfits⟩
  · rintro ⟨h0, h1, r, hr, hopn, harg, hfits⟩
    exact ⟨r, hr, (selectedBy_iff hr _).2 ⟨h0, h1, hopn, harg⟩, hfits⟩

/-- Whatever fits a row of Table H3 the decoder accepts: the row's OPN selects the decoder's arm, and the row's mask and
format are the two tests of that arm. -/
theorem exists_decode_of_legal {t : Transaction} (h : t.legal = true) : ∃ i, decode t = .ok i := by
  obtain ⟨h0, h1, r, hr, hopn, harg, hfits⟩ := legal_iff_fields.1 h
  have hfull : 0xFF#8 &&& arg8Of t.cw = arg8Of t.cw := BitVec.allOnes_and
  have hsetv := setvMask_and_eq_zero_iff (arg8Of t.cw)
  simp only [opTable, List.mem_cons, List.not_mem_nil, or_false] at hr
  rcases hr with rfl | rfl | rfl | rfl | rfl | rfl | rfl | rfl | rfl | rfl
  all_goals simp_all [decode, ← hopn]

/-- R104, the clauses on OPN, ARG8 and the shape: together they say that no row of Table H3 with this OPN fits. -/
theorem no_row_fits_iff (o : BitVec 4) (a : Byte) (t : Transaction) :
    (¬ ∃ r ∈ opTable, r.value.extractLsb' 0 4 = o ∧ r.mask.extractLsb' 8 8 &&& a = 0 ∧ r.format.fits t = true) ↔
      (o.toNat = 0 ∨ 0xB ≤ o.toNat) ∨
      (o.toNat ∈ [2, 3, 4, 5, 7, 9, 10] ∧ a ≠ 0) ∨
      (o.toNat = 8 ∧ a.extractLsb' 1 7 ≠ 0) ∨
      (o.toNat ∈ [1, 2] ∧ t.words ≠ []) ∨
      (o.toNat = 3 ∧ ¬ (t.words.length = 1 ∧ t.data = [])) ∨
      (o.toNat ∈ [4, 5, 6, 7, 8, 9, 10] ∧ ¬ (t.words = [] ∧ t.data = [])) := by
  have hfull : 0xFF#8 &&& a = a := BitVec.allOnes_and
  have hsetv := setvMask_and_eq_zero_iff a
  simp only [opTable, List.exists_mem_cons_iff, List.not_mem_nil, false_and, exists_false, or_false, fits_n, fits_b,
    fits_w, fits_d]
  obtain ⟨k, hk, rfl⟩ : ∃ k < 16, o = BitVec.ofNat 4 k := ⟨o.toNat, o.isLt, by simp⟩
  interval_cases k
  all_goals simp [hfull, hsetv, -not_and, not_and_or]

/-- Settles O3: what decodes is an encoding, and every encoding is legal. -/
theorem transactionDecodesExactlyWhenATableRowFits : Obligations.TransactionDecodesExactlyWhenATableRowFits := by
  refine fun t => ⟨?_, exists_decode_of_legal⟩
  rintro ⟨i, hd⟩
  obtain ⟨hwf, rfl⟩ := wf_and_encode_of_decode hd
  exact legal_encode hwf

/-- Settles O6: the five operations are decoded from their encodings, the two errors by evaluation. -/
theorem sampleWordsDecodeAsTheTableSays : Obligations.SampleWordsDecodeAsTheTableSays :=
  ⟨decode_encode (i := .enc 0x19#8 [0x64#8]) rfl, decode_encode (i := .kexb 0x12345678#32) rfl,
    decode_encode (i := .rxb 0x02#8) rfl, decode_encode (i := .setv 1#8) rfl, decode_encode (i := .srst) rfl,
    rfl, rfl⟩

end Sys2Proof

namespace Sys2Proof.Machine

/-! ## Illegal transactions (R104) -/

/-- An illegal transaction does not decode, so the step answers ERR(IllegalOp, CW) and changes nothing else. -/
theorem step_of_illegal {s : State} {t : Transaction} {rest : List Input} (ht : t.legal = false)
    (hin : s.inputs = .op t :: rest) :
    step s = .next { s with inputs := rest, responses := s.responses ++ [⟨0x06#8, t.cw⟩] } := by
  cases hd : decode t with
  | ok i =>
    have hlegal := (transactionDecodesExactlyWhenATableRowFits t).1 ⟨i, hd⟩
    exact absurd (ht.symm.trans hlegal) Bool.false_ne_true
  | error e => exact step_of_undecodable hin hd

/-- Settles O5: what is left of Table H3 outside the reserved bits is that a row fits. -/
theorem illegalTransactionIsRefusedUnchanged : Obligations.IllegalTransactionIsRefusedUnchanged := by
  intro t
  refine ⟨?_, transactionDecodesExactlyWhenATableRowFits t, fun s rest ht hin => step_of_illegal ht hin⟩
  have hbits : t.cw.extractLsb' 9 7 = (arg8Of t.cw).extractLsb' 1 7 := by
    ext i hi
    simp [arg8Of, show 1 + i < 8 by omega, show 8 + (1 + i) = 9 + i by omega]
  have hrows := no_row_fits_iff (opnOf t.cw) (arg8Of t.cw) t
  rw [← Bool.not_eq_true, legal_iff_fields, hbits, ← and_assoc, not_and_or, not_and_or, hrows]
  exact or_left_comm

/-! ## The markers (R95, R96) -/

/-- A read is not changed by a write outside the bytes it takes. -/
theorem take_drop_set {buf : List Byte} {off n j : Nat} (m : Byte) (h : j < off ∨ off + n ≤ j) :
    ((buf.set j m).drop off).take n = (buf.drop off).take n := by
  rcases h with hbefore | hafter
  · rw [List.drop_set_of_lt hbefore]
  · rw [List.drop_set, if_neg (by omega), List.take_set_of_le (by omega)]

theorem memRead_set {buf : List Byte} {off n j : Nat} (m : Byte) (h : j < off ∨ off + n ≤ j) :
    memRead (buf.set j m) off n = memRead buf off n := by
  rw [memRead, take_drop_set m h, memRead]

/-- DecodeOne reads no byte at its offset, and none from the one after the checksum on (42_deframer R171). -/
theorem decodeOne_set {buf : List Byte} {off j : Nat} (m : Byte)
    (h : j = off ∨ off + 9 + memRead buf (off + 3) 2 ≤ j) : decodeOne (buf.set j m) off = decodeOne buf off := by
  simp only [decodeOne, List.length_set]
  rw [memRead_set (off := off + 1) m (by omega), memRead_set (off := off + 2) m (by omega),
    memRead_set (off := off + 3) m (by omega), memRead_set m (by omega), take_drop_set m (by omega)]

/-- A frame that DecodeOne accepts has the length its length field declares. -/
theorem used_of_decodeOne {buf : List Byte} {off used : Nat} {r : InboundRecord}
    (h : decodeOne buf off = .ok (r, used)) : used = 10 + memRead buf (off + 3) 2 := by
  simp only [decodeOne] at h
  split_ifs at h
  rw [Except.ok.injEq, Prod.mk.injEq] at h
  exact h.2.symm

theorem decodeOne_set_markers {buf : List Byte} {off used : Nat} {r : InboundRecord} (m₁ m₂ : Byte)
    (h : decodeOne buf off = .ok (r, used)) :
    decodeOne ((buf.set off m₁).set (off + used - 1) m₂) off = .ok (r, used) := by
  have hstart : decodeOne (buf.set off m₁) off = .ok (r, used) := (decodeOne_set m₁ (.inl rfl)).trans h
  have hused := used_of_decodeOne hstart
  exact (decodeOne_set m₂ (.inr (by omega))).trans hstart

/-- RXB stores no byte that stands where a marker is due. -/
theorem rxStore_of_marker (b : Byte) {s : State}
    (h : s.rxPos.toNat = 0 ∨ 5 ≤ s.rxPos.toNat ∧ s.rxPos.toNat = 9 + s.rxLen.toNat) : rxStore b s = s := by
  rcases h with hstart | hend
  · simp [rxStore_eq, hstart]
  · exact rxStore_of_completes b s (rxCompletes_iff.2 hend)

/-- RXB depends on its byte through the store alone. -/
theorem exec_rxb_congr {b₁ b₂ : Byte} {s : State} (h : rxStore b₁ s = rxStore b₂ s) :
    exec (.rxb b₁) s = exec (.rxb b₂) s := by
  simp only [exec, execRxb, h]

/-- Settles O25: DecodeOne reads around the markers, RXB stores neither. -/
theorem markerValuesAreIgnored : Obligations.MarkerValuesAreIgnored :=
  ⟨fun _ _ _ _ m₁ m₂ _ h => decodeOne_set_markers m₁ m₂ h,
    fun _ b₁ b₂ h => exec_rxb_congr ((rxStore_of_marker b₁ h).trans (rxStore_of_marker b₂ h).symm)⟩

/-! ## The protocol opcodes (R97) -/

theorem opcodeIndex_injective : Function.Injective Config.opcodeIndex := by
  intro a b h
  cases a <;> cases b <;> simp [Config.opcodeIndex] at h ⊢

/-- Settles O45: the assignment is a permutation of the bytes, and the places in the list are distinct. -/
theorem protocolOpcodesAreDistinct : Obligations.ProtocolOpcodesAreDistinct :=
  fun _ _ h => opcodeIndex_injective (Config.opcodeAssignment.injective h)

/-! ## The response of an operation (R101, 60_exceptions R240, R251) -/

/-- The error an operation raises in a state, if any, in the order of checks of R251. -/
def raisedError : Instr → State → Option ErrorKind
  | .enc _ data, s =>
    if s.kexp = true then some .illegalOp
    else if Config.maxCmd < data.length then some .oversizedCommand
    else none
  | .kexb _, s => if s.neg = true ∨ s.kexp = true then some .illegalOp else none
  | .kexc, s | .kexa, s => if s.kexp = true then none else some .illegalOp
  | .rxb _, s => if rxCompletes s = true ∧ crcVerdict s = .mismatch then some .checksumMismatch else none
  | .rxe, s => if s.rxPos ≠ 0 then some .truncationError else none
  | .setv arg, _ => if 1 < arg.toNat then some .illegalOp else none
  | .csum _, _ | .rdst, _ | .srst, _ => none

/-- The code of the response that reports an error, or success (R101, Table E1). -/
def responseCode (e : Option ErrorKind) : Byte := e.elim 0 errorCode

/-- The codes tell the errors apart, and from success. -/
theorem responseCode_injective : Function.Injective responseCode := by
  rintro (_ | a) (_ | b) h
  · rfl
  · exact absurd h.symm (errorCode_ne_zero b)
  · exact absurd h (errorCode_ne_zero a)
  · rw [(errorCode_eq_iff a b).1 h]

/-- The operation completes with one response, which has the code of `raisedError` and, for IllegalOp, the command word. -/
def AnswersAsRaised (i : Instr) (s : State) : Prop :=
  ∃ t r, exec i s = .next t ∧ t.responses = s.responses ++ [r] ∧ r.code = responseCode (raisedError i s) ∧
    (raisedError i s = some .illegalOp → r.value = (encode i).cw)

section
variable {i : Instr} {s u : State} {v : Word}

theorem answersAsRaised_of_error {e : ErrorKind} (he : raisedError i s = some e)
    (h : exec i s = .next (raiseError e v u)) (hu : u.responses = s.responses)
    (hv : e = .illegalOp → v = (encode i).cw) : AnswersAsRaised i s :=
  ⟨_, ⟨errorCode e, v⟩, h, by simp [hu], by rw [he]; rfl, by simpa [he] using hv⟩

theorem answersAsRaised_of_ok (he : raisedError i s = none) (h : exec i s = .next (respondOk v u))
    (hu : u.responses = s.responses) : AnswersAsRaised i s :=
  ⟨_, ⟨0, v⟩, h, by simp [hu], by rw [he]; rfl, by simp [he]⟩

end

/-- A completing byte reports a mismatch, or answers OK(1) (R180). -/
theorem rxDeliver_cases (s : State) :
    (crcVerdict s = .mismatch ∧ rxDeliver s =
      raiseError .checksumMismatch (rxChecksum s) (frameBoundary (recEmit (rxRecord s) s))) ∨
    (crcVerdict s ≠ .mismatch ∧ rxDeliver s = respondOk 1 (frameBoundary (recEmit (rxRecord s) s))) := by
  by_cases hv : crcVerdict s = .mismatch
  · exact .inl ⟨hv, if_pos hv⟩
  · exact .inr ⟨hv, if_neg hv⟩

/-- `raisedError` is the error of the response, whatever the operation and the state. -/
theorem exec_answersAsRaised (i : Instr) (s : State) : AnswersAsRaised i s := by
  cases i with
  | enc op data =>
    rcases exec_enc_cases op data s with ⟨hk, h⟩ | ⟨hk, hlen, h⟩ | ⟨hk, hlen, _, _, h⟩
    · exact answersAsRaised_of_error (by simp [raisedError, hk]) h rfl fun _ => rfl
    · exact answersAsRaised_of_error (by simp [raisedError, hk, hlen]) h rfl nofun
    · exact answersAsRaised_of_ok (by simp [raisedError, hk, hlen]) h rfl
  | kexb key =>
    rcases exec_kexb_cases key s with ⟨hbusy, h⟩ | ⟨hn, hk, h⟩
    · exact answersAsRaised_of_error (by simp [raisedError, hbusy]) h rfl fun _ => rfl
    · exact answersAsRaised_of_ok (by simp [raisedError, hn, hk]) h rfl
  | kexc =>
    rcases exec_kexc_cases s with ⟨hk, h⟩ | ⟨hk, h⟩
    · exact answersAsRaised_of_ok (by simp [raisedError, hk]) h rfl
    · exact answersAsRaised_of_error (by simp [raisedError, hk]) h rfl fun _ => rfl
  | kexa =>
    rcases exec_kexa_cases s with ⟨hk, h⟩ | ⟨hk, h⟩
    · exact answersAsRaised_of_ok (by simp [raisedError, hk]) h rfl
    · exact answersAsRaised_of_error (by simp [raisedError, hk]) h rfl fun _ => rfl
  | rxb b =>
    rcases exec_rxb_cases b s with ⟨hdone, h⟩ | ⟨hdone, h⟩
    · rcases rxDeliver_cases s with ⟨hv, hd⟩ | ⟨hv, hd⟩ <;> rw [hd] at h
      · exact answersAsRaised_of_error (by simp [raisedError, hdone, hv]) h rfl nofun
      · exact answersAsRaised_of_ok (by simp [raisedError, hv]) h rfl
    · exact answersAsRaised_of_ok (by simp [raisedError, hdone]) h (by simp [rxStore_eq])
  | rxe =>
    rcases exec_rxe_cases s with ⟨hp, h⟩ | ⟨hp, h⟩
    · exact answersAsRaised_of_error (if_pos hp) h rfl nofun
    · exact answersAsRaised_of_ok (by simp [raisedError, hp]) h rfl
  | setv arg =>
    rcases exec_setv_cases arg s with ⟨harg, h⟩ | ⟨harg, h⟩
    · exact answersAsRaised_of_ok (by simp [raisedError, harg]) h rfl
    · exact answersAsRaised_of_error (by simp [raisedError, harg]) h rfl fun _ => rfl
  | csum | rdst | srst => exact answersAsRaised_of_ok rfl rfl rfl

/-- The block raises four of the seven error kinds of Table E1. -/
theorem raisedError_mem (i : Instr) (s : State) : raisedError i s ∈
    [none, some .truncationError, some .oversizedCommand, some .checksumMismatch, some .illegalOp] := by
  cases i with
  | csum | rdst | srst => simp [raisedError]
  | enc | kexb | kexc | kexa | rxb | rxe | setv =>
    simp only [raisedError]
    split_ifs <;> simp

/-- The verdict is a mismatch when verification is on and the checksums differ (R180). -/
theorem crcVerdict_eq_mismatch_iff (s : State) :
    crcVerdict s = .mismatch ↔ s.verifyEn = true ∧ kcrc (activeKey s) s.rxPay ≠ s.rxCrc := by
  unfold crcVerdict rxChecksum
  split_ifs <;> simp_all

theorem raisedError_truncation_iff {i : Instr} {s : State} :
    raisedError i s = some .truncationError ↔ i = .rxe ∧ s.rxPos ≠ 0 := by
  cases i with
  | rxe => simp [raisedError]
  | enc | csum | kexb | kexc | kexa | rxb | setv | rdst | srst => simp [raisedError, ite_eq_iff]

theorem raisedError_oversized_iff {i : Instr} {s : State} : raisedError i s = some .oversizedCommand ↔
    ∃ op data, i = .enc op data ∧ s.kexp = false ∧ 516096 < data.length := by
  have hmax : Config.maxCmd = 516096 := rfl
  cases i with
  | enc => simp [raisedError, ite_eq_iff, hmax]
  | csum | kexb | kexc | kexa | rxb | rxe | setv | rdst | srst => simp [raisedError]

theorem raisedError_mismatch_iff {i : Instr} {s : State} : raisedError i s = some .checksumMismatch ↔
    (∃ b, i = .rxb b) ∧ 5 ≤ s.rxPos.toNat ∧ s.rxPos.toNat = 9 + s.rxLen.toNat ∧
      s.verifyEn = true ∧ kcrc (activeKey s) s.rxPay ≠ s.rxCrc := by
  cases i with
  | rxb => simp [raisedError, rxCompletes_iff, crcVerdict_eq_mismatch_iff, and_assoc]
  | enc | csum | kexb | kexc | kexa | rxe | setv | rdst | srst => simp [raisedError, ite_eq_iff]

theorem raisedError_illegalOp_iff {i : Instr} {s : State} : raisedError i s = some .illegalOp ↔
    ((∃ op data, i = .enc op data) ∧ s.kexp = true) ∨
      ((∃ k, i = .kexb k) ∧ (s.neg = true ∨ s.kexp = true)) ∨
      ((i = .kexc ∨ i = .kexa) ∧ s.kexp = false) ∨ ∃ arg : Byte, i = .setv arg ∧ 1 < arg.toNat := by
  cases i with
  | kexb => simp [raisedError, or_iff_not_imp_left]
  | enc | csum | kexc | kexa | rxb | rxe | setv | rdst | srst => simp [raisedError]

/-- Settles O46: the code is that of `raisedError`, and codes tell errors apart. -/
theorem everyOperationAnswersOnceWithTheErrorItsRuleGives :
    Obligations.EveryOperationAnswersOnceWithTheErrorItsRuleGives := by
  intro i s
  obtain ⟨t, r, hexec, hresp, hcode, hvalue⟩ := exec_answersAsRaised i s
  have hiff (e : ErrorKind) : r.code = errorCode e ↔ raisedError i s = some e := by
    rw [hcode]
    exact responseCode_injective.eq_iff (b := some e)
  have hmem : r.code ∈ [0x00#8, 0x03#8, 0x04#8, 0x05#8, 0x06#8] := by
    rw [hcode]
    exact List.mem_map_of_mem (f := responseCode) (raisedError_mem i s)
  exact ⟨t, r, hexec, hresp, (effect_of_exec hexec).inputs_kept, hmem,
    (hiff .truncationError).trans raisedError_truncation_iff,
    (hiff .oversizedCommand).trans raisedError_oversized_iff,
    (hiff .checksumMismatch).trans raisedError_mismatch_iff,
    (hiff .illegalOp).trans raisedError_illegalOp_iff,
    fun h => hvalue ((hiff .illegalOp).1 h)⟩

end Sys2Proof.Machine

/-! PROOFS of the family 40_keyring: the active key (R130), the laws of KCRC (R132) and the operation CSUM (R134). -/

namespace Sys2Proof.Machine

/-! ## The laws of KCRC (40_keyring R132) -/

/-- The step of one byte loses no bit of the register: the byte is XORed in and the bit steps are injective. -/
theorem crcByte_injective (b : Byte) : Function.Injective (crcByte · b) := fun _ _ h =>
  (BitVec.xor_left_inj _).1 (crcBit_injective.iterate 8 h)

theorem foldl_crcByte_injective (data : List Byte) : Function.Injective (data.foldl crcByte) := by
  induction data with
  | nil => exact Function.injective_id
  | cons b bs ih => exact ih.comp (crcByte_injective b)

/-- The two inversions around the bytes are XORs with the same constant, so they cancel. -/
@[simp] theorem kcrc_nil (key : Word) : kcrc key [] = key := by
  rw [kcrc, List.foldl_nil, BitVec.xor_assoc, BitVec.xor_self, BitVec.xor_zero]

/-- The inversion that ends the first part and the one that begins the second cancel, so the fold runs on. -/
theorem kcrc_append (key : Word) (a b : List Byte) : kcrc key (a ++ b) = kcrc (kcrc key a) b := by
  simp only [kcrc, List.foldl_append, BitVec.xor_assoc, BitVec.xor_self, BitVec.xor_zero]

theorem kcrc_injective (data : List Byte) : Function.Injective (kcrc · data) := fun _ _ h =>
  (BitVec.xor_left_inj _).1 (foldl_crcByte_injective data ((BitVec.xor_left_inj _).1 h))

@[simp] theorem kcrc_inj {k₁ k₂ : Word} {data : List Byte} : kcrc k₁ data = kcrc k₂ data ↔ k₁ = k₂ :=
  (kcrc_injective data).eq_iff

/-- Settles O13: each step of the checksum is injective in the register, and the key is its first value. -/
theorem differentKeysGiveDifferentChecksums : Obligations.DifferentKeysGiveDifferentChecksums :=
  fun _ _ data h => kcrc_injective data h

/-- Settles O12: KCRC is a fold over the bytes between two inversions that cancel. -/
theorem keyedChecksumOfEmptyIsKeyAndChains : Obligations.KeyedChecksumOfEmptyIsKeyAndChains :=
  ⟨kcrc_nil, kcrc_append⟩

/-! ## The active key (40_keyring R130) -/

/-- Settles O11, by the two cases of NEG. -/
theorem activeKeyIsSessionKeyOnceNegotiated : Obligations.ActiveKeyIsSessionKeyOnceNegotiated :=
  fun _ => ⟨activeKey_unnegotiated, fun _ => activeKey_negotiated⟩

/-! ## CSUM (40_keyring R134) -/

/-- What every operation's rule says of its malformed transactions holds for every OPN (R104). -/
theorem malformedIsRefused (opn : Nat) : MalformedIsRefused opn :=
  fun _ _ _ _ => step_of_illegal

/-- CSUM is one response (R134). -/
theorem exec_csum (data : List Byte) (s : State) : exec (.csum data) s =
    .next { s with responses := s.responses ++ [⟨0#8, kcrc (activeKey s) data⟩] } := rfl

/-- A KEXC with a candidate succeeds and makes it the active key (R133, R205). -/
theorem exec_kexc_activeKey {s : State} {k : Word} (hkexp : s.kexp = true) (hpkey : s.pkey = some k) :
    ∃ t, exec .kexc s = .next t ∧ activeKey t = k := by
  rcases exec_kexc_cases s with ⟨_, h⟩ | ⟨hrefused, _⟩
  · refine ⟨_, h, ?_⟩
    rw [hpkey]
    exact activeKey_negotiated rfl rfl
  · simp [hkexp] at hrefused

/-- Settles O14: the two checksums of the last clause are those of the candidate and of the default key, which KCRC tells apart. -/
theorem csumAnswersKeyedChecksumAndChangesNothing : Obligations.CsumAnswersKeyedChecksumAndChangesNothing := by
  intro s data
  refine ⟨decode_encode (i := .csum data) rfl, exec_csum data s, by rw [exec_csum, kcrc_nil],
    malformedIsRefused 2, ?_⟩
  intro k hneg hkexp hpkey
  obtain ⟨t, ht, hkey⟩ := exec_kexc_activeKey hkexp hpkey
  refine ⟨t, ht, ?_⟩
  rw [hkey, activeKey_unnegotiated hneg]
  exact kcrc_inj

end Sys2Proof.Machine

/-! PROOFS of the family 41_framer: Split, Frame and Encode (41_framer R150, R151), the operation ENC (R152 to R156), and the round trip
of an encoded command through DecodeOne, Parse and the byte-serial deframer (R158). -/

namespace Sys2Proof.Machine

/-! ## Split (41_framer R150) -/

theorem chunkCount_eq (n : Nat) : chunkCount n = max 1 ((n + 2015) / 2016) := by
  rw [chunkCount, Config.maxChunk, Nat.add_sub_assoc (by decide)]

@[simp] theorem splitPayload_length (payload : List Byte) :
    (splitPayload payload).length = chunkCount payload.length := by
  simp [splitPayload]

theorem splitPayload_getElem?_eq_some {payload c : List Byte} {k : Nat} :
    (splitPayload payload)[k]? = some c ↔ k < chunkCount payload.length ∧ chunkAt payload k = c := by
  simp [splitPayload, List.getElem?_eq_some_iff]

theorem chunkAt_length (payload : List Byte) (k : Nat) :
    (chunkAt payload k).length = min 2016 (payload.length - k * 2016) := by
  simp [chunkAt, Config.maxChunk]

/-- The first `m` chunks are the first `m * MAX_CHUNK` bytes of the payload. -/
theorem flatten_chunks (payload : List Byte) (m : Nat) :
    ((List.range m).map (chunkAt payload)).flatten = payload.take (m * 2016) := by
  induction m with
  | zero => simp
  | succ m ih =>
    rw [List.range_succ, List.map_append, List.flatten_append, ih, Nat.succ_mul, List.take_add]
    simp [chunkAt, Config.maxChunk]

@[simp] theorem flatten_splitPayload (payload : List Byte) : (splitPayload payload).flatten = payload := by
  rw [splitPayload, flatten_chunks, chunkCount_eq]
  exact List.take_of_length_le (by omega)

/-- Settles O15: the length of chunk k is what is left from its offset, capped at MAX_CHUNK. -/
theorem splitCutsThePayloadIntoFullChunksAndARest : Obligations.SplitCutsThePayloadIntoFullChunksAndARest := by
  intro payload
  refine ⟨flatten_splitPayload payload, splitPayload_length payload, by rintro rfl; rfl, ?_⟩
  intro k c hc
  obtain ⟨hk, rfl⟩ := splitPayload_getElem?_eq_some.1 hc
  rw [chunkCount_eq] at hk
  rw [splitPayload_length, chunkCount_eq, chunkAt_length, ← List.length_pos_iff]
  exact ⟨fun hnext => by omega, fun hlast => ⟨by omega, by omega, fun hne => by omega⟩⟩

/-! ## Frame (R95, R151) -/

/-- The bytes that stand for a record on the wire, between any two markers: the layout of R92 and R151. -/
def wireFrame (m₁ m₂ : Byte) (r : InboundRecord) : Frame :=
  [m₁, r.opcode, r.seq] ++ le16 r.length ++ r.payload ++ le32 r.checksum ++ [m₂]

/-- The record that a frame of the framer stands for (R158). -/
def frameRecord (op seq : Byte) (chunk : List Byte) (key : Word) : InboundRecord :=
  ⟨op, seq, BitVec.ofNat 16 chunk.length, chunk, kcrc key chunk⟩

theorem frameBytes_eq_wireFrame (op seq : Byte) (chunk : List Byte) (key : Word) :
    frameBytes op seq chunk key = wireFrame Config.som Config.eom (frameRecord op seq chunk key) := rfl

/-- The length field of a record tells the length of its payload (42_deframer R171). -/
def WholePayload (r : InboundRecord) : Prop := r.payload.length = r.length.toNat

theorem wholePayload_frameRecord (op seq : Byte) {chunk : List Byte} (key : Word) (h : chunk.length ≤ 65535) :
    WholePayload (frameRecord op seq chunk key) := by
  simp only [WholePayload, frameRecord, BitVec.toNat_ofNat]
  omega

@[simp] theorem wireFrame_length (m₁ m₂ : Byte) (r : InboundRecord) :
    (wireFrame m₁ m₂ r).length = 10 + r.payload.length := by
  simp only [wireFrame, List.length_append, List.length_cons, List.length_nil, le16_length, le32_length]
  omega

theorem flatten_wireFrames_length (m₁ m₂ : Byte) (rs : List InboundRecord) :
    (rs.map (wireFrame m₁ m₂)).flatten.length = (rs.map (·.payload)).flatten.length + 10 * rs.length := by
  induction rs with
  | nil => rfl
  | cons r rs ih =>
    simp only [List.map_cons, List.flatten_cons, List.length_append, wireFrame_length, ih, List.length_cons]
    omega

/-- LE16 of a length: its remainder and its quotient by 256 (00_scope R12). -/
theorem le16_ofNat {n : Nat} (h : n ≤ 65535) :
    le16 (BitVec.ofNat 16 n) = [BitVec.ofNat 8 (n % 256), BitVec.ofNat 8 (n / 256)] := by
  have hlow : (BitVec.ofNat 16 n).extractLsb' 0 8 = BitVec.ofNat 8 (n % 256) := by
    apply BitVec.eq_of_toNat_eq
    simp only [BitVec.extractLsb'_toNat, BitVec.toNat_ofNat, Nat.shiftRight_zero]
    omega
  have hhigh : (BitVec.ofNat 16 n).extractLsb' 8 8 = BitVec.ofNat 8 (n / 256) := by
    apply BitVec.eq_of_toNat_eq
    simp only [BitVec.extractLsb'_toNat, BitVec.toNat_ofNat, Nat.shiftRight_eq_div_pow]
    omega
  rw [le16, hlow, hhigh]

theorem le32_getElem? (v : Word) {j : Nat} (h : j < 4) : (le32 v)[j]? = some (v.extractLsb' (8 * j) 8) := by
  interval_cases j <;> rfl

/-- A frame in three parts: the five header bytes, the chunk, the five trailer bytes. -/
theorem frameBytes_eq_header_append (op seq : Byte) {chunk : List Byte} (key : Word) (h : chunk.length ≤ 65535) :
    frameBytes op seq chunk key =
      [Config.som, op, seq, BitVec.ofNat 8 (chunk.length % 256), BitVec.ofNat 8 (chunk.length / 256)] ++
        (chunk ++ (le32 (kcrc key chunk) ++ [Config.eom])) := by
  simp [frameBytes, le16_ofNat h]

theorem frameBytes_length (op seq : Byte) (chunk : List Byte) (key : Word) :
    (frameBytes op seq chunk key).length = 10 + chunk.length := by
  rw [frameBytes_eq_wireFrame, wireFrame_length]
  rfl

/-- Past the chunk stands the trailer. -/
theorem frameBytes_getElem?_trailer (op seq : Byte) {chunk : List Byte} (key : Word) (h : chunk.length ≤ 65535) (j : Nat) :
    (frameBytes op seq chunk key)[chunk.length + 5 + j]? = (le32 (kcrc key chunk) ++ [Config.eom])[j]? := by
  rw [frameBytes_eq_header_append op seq key h, List.getElem?_append_right (by simp; omega),
    List.getElem?_append_right (by simp; omega)]
  congr 1
  simp only [List.length_cons, List.length_nil]
  omega

/-- Only the low eight bits of a frame's number enter its sequence byte (R151). -/
theorem byte_ofNat_mod (k : Nat) : BitVec.ofNat 8 (k % 256) = BitVec.ofNat 8 k := by
  apply BitVec.eq_of_toNat_eq
  simp

theorem encodeCommand_length (op : Byte) (payload : List Byte) (key : Word) :
    (encodeCommand op payload key).length = chunkCount payload.length := by
  simp [encodeCommand_eq]

theorem encodeCommand_getElem? {op : Byte} {payload c : List Byte} {key : Word} {k : Nat}
    (hc : (splitPayload payload)[k]? = some c) :
    (encodeCommand op payload key)[k]? = some (frameBytes op (BitVec.ofNat 8 (k % 256)) c key) := by
  rw [byte_ofNat_mod, encodeCommand, List.getElem?_mapIdx, hc, Option.map_some]

/-- Settles O16: header and trailer are read off the frame's three parts. -/
theorem frameAndEncodeHaveTheirLayout : Obligations.FrameAndEncodeHaveTheirLayout := by
  refine ⟨fun op seq chunk key h => ?_, fun op payload key => ⟨?_, fun k c hc => encodeCommand_getElem? hc⟩⟩
  · have htrailer := frameBytes_getElem?_trailer op seq key h
    have hparts := frameBytes_eq_header_append op seq key h
    refine ⟨frameBytes_length op seq chunk key, rfl, rfl, rfl, by rw [hparts]; rfl, by rw [hparts]; rfl, ?_, ?_, ?_⟩
    · rw [hparts]
      exact List.take_left
    · intro j hj
      rw [htrailer, List.getElem?_append_left hj, le32_getElem? _ hj]
    · exact htrailer 4
  · rw [encodeCommand_length, splitPayload_length]

/-! ## Encode as the records its frames stand for (R151, R158) -/

/-- The records of an encoded command, one for each chunk, numbered from 0. -/
def encodedRecords (op : Byte) (payload : List Byte) (key : Word) : List InboundRecord :=
  (List.range (chunkCount payload.length)).map fun k => frameRecord op (BitVec.ofNat 8 k) (chunkAt payload k) key

theorem encodeCommand_eq_wireFrames (op : Byte) (payload : List Byte) (key : Word) :
    encodeCommand op payload key = (encodedRecords op payload key).map (wireFrame Config.som Config.eom) := by
  rw [encodeCommand_eq, encodedRecords, List.map_map]
  rfl

theorem encodedRecords_payload (op : Byte) (payload : List Byte) (key : Word) :
    (encodedRecords op payload key).map (·.payload) = splitPayload payload := by
  rw [encodedRecords, List.map_map]
  rfl

theorem encodedRecords_seq (op : Byte) (payload : List Byte) (key : Word) :
    (encodedRecords op payload key).map (·.seq) =
      (List.range (encodeCommand op payload key).length).map (BitVec.ofNat 8) := by
  rw [encodedRecords, List.map_map, encodeCommand_length]
  rfl

theorem mem_encodedRecords {op : Byte} {payload : List Byte} {key : Word} {r : InboundRecord}
    (hr : r ∈ encodedRecords op payload key) :
    ∃ seq c, c.length ≤ 2016 ∧ r = frameRecord op seq c key := by
  obtain ⟨k, _, rfl⟩ := List.mem_map.1 hr
  exact ⟨_, _, (chunkAt_length payload k).trans_le (min_le_left _ _), rfl⟩

theorem wholePayload_of_mem_encodedRecords {op : Byte} {payload : List Byte} {key : Word} {r : InboundRecord}
    (hr : r ∈ encodedRecords op payload key) : WholePayload r := by
  obtain ⟨seq, c, hc, rfl⟩ := mem_encodedRecords hr
  exact wholePayload_frameRecord op seq key (by omega)

/-- Settles O20: each frame adds its ten bytes, and the payloads of the frames are the payload. -/
theorem encodedLengthIsPayloadPlusTenPerFrame : Obligations.EncodedLengthIsPayloadPlusTenPerFrame := by
  refine ⟨fun op payload key => ?_, fun op payload key n k hn hk => ?_⟩
  · rw [encodeCommand_eq_wireFrames, flatten_wireFrames_length, encodedRecords_payload, flatten_splitPayload,
      List.length_map]
  · rw [encodeCommand_length, hn]
    have htable : ∀ p ∈ [(0, 1), (1, 1), (2016, 1), (2017, 2), (4032, 2), (4033, 3), (4096, 3), (516096, 256)],
        chunkCount p.1 = p.2 := by decide
    exact htable (n, k) hk

/-! ## ENC (R152 to R155) -/

/-- ENC with nothing pending, of a payload its policy admits. -/
theorem encUnder_framed {policy : SeqPolicy} (op : Byte) {data : List Byte} {s : State} (hk : s.kexp = false)
    (hfit : ¬ (policy = .reject ∧ Config.maxCmd < data.length)) :
    encUnder policy op data s = { s with
      tx := s.tx ++ encodeCommand op data (activeKey s)
      txSeq := BitVec.ofNat 8 (chunkCount data.length)
      responses := s.responses ++ [⟨0#8, frameCountWord (chunkCount data.length)⟩] } := by
  rw [encUnder, if_neg (by simp [hk]), if_neg hfit, encLoop_eq _ _ _ _ rfl]
  rfl

/-- ENC with a key exchange pending is refused whatever its payload (R155). -/
theorem exec_enc_pending (op : Byte) (data : List Byte) {s : State} (hk : s.kexp = true) :
    exec (.enc op data) s = .next { s with
      responses := s.responses ++ [⟨0x06#8, 0x00000001#32 ||| (op.setWidth 32 <<< 8)⟩] } := by
  rw [exec, execEnc, encUnder, if_pos hk]
  rfl

/-- ENC of a payload above MAX_CMD is refused (R153, R155). -/
theorem exec_enc_oversized (op : Byte) {data : List Byte} {s : State} (hk : s.kexp = false)
    (hlong : 516096 < data.length) :
    exec (.enc op data) s = .next { s with
      responses := s.responses ++ [⟨0x04#8, BitVec.ofNat 32 (min data.length 0xFFFFFFFF)⟩] } := by
  rw [exec, execEnc, encUnder, if_neg (by simp [hk]), if_pos ⟨rfl, hlong⟩]
  rfl

/-- The count ENC answers, where a `u32` holds it (30_encoding R101). -/
theorem frameCountWord_of_lt {k : Nat} (h : k < 2 ^ 32) : frameCountWord k = BitVec.ofNat 32 k := if_pos h

/-- ENC of a payload within MAX_CMD (R152). -/
theorem exec_enc_framed (op : Byte) {data : List Byte} {s : State} (hk : s.kexp = false)
    (hlen : data.length ≤ 516096) :
    exec (.enc op data) s = .next { s with
      tx := s.tx ++ encodeCommand op data (activeKey s)
      txSeq := BitVec.ofNat 8 (chunkCount data.length)
      responses := s.responses ++ [⟨0#8, BitVec.ofNat 32 (chunkCount data.length)⟩] } := by
  have hcount : chunkCount data.length < 2 ^ 32 := by rw [chunkCount_eq]; omega
  have hfit : ¬ (Config.seqPolicy = .reject ∧ Config.maxCmd < data.length) :=
    fun h => absurd h.2 (Nat.not_lt_of_le hlen)
  rw [exec, execEnc, encUnder_framed op hk hfit, frameCountWord_of_lt hcount]

/-- Settles O17: the three cases of ENC, and the decoder on its transactions. -/
theorem encAppendsExactlyTheEncodedFrames : Obligations.EncAppendsExactlyTheEncodedFrames :=
  fun _ op data => ⟨decode_encode (i := .enc op data) rfl, malformedIsRefused 1, exec_enc_framed op,
    exec_enc_pending op data, exec_enc_oversized op⟩

/-- Settles O18: the policy enters ENC in one test only, which WRAP passes. -/
theorem wrapPolicyFramesEveryLength : Obligations.WrapPolicyFramesEveryLength := by
  intro s op data hk
  refine ⟨frameCountWord (chunkCount data.length), encUnder_framed op hk (by simp), frameCountWord_of_lt, ?_⟩
  intro k f hf
  obtain ⟨hklt, -⟩ := List.getElem?_eq_some_iff.1 hf
  rw [encodeCommand_length] at hklt
  rw [encodeCommand_getElem? (splitPayload_getElem?_eq_some.2 ⟨hklt, rfl⟩), Option.some.injEq] at hf
  rw [← hf]
  rfl

/-- Settles O23: the first ENC leaves the active key and KEXP, so the second emits the same frames. -/
theorem reissuedEncGivesTheSameFrames : Obligations.ReissuedEncGivesTheSameFrames := by
  intro s op data hk hlen
  refine ⟨_, _, exec_enc_framed op hk hlen, exec_enc_framed op hk hlen,
    encodeCommand op data (activeKey s), ?_, rfl, rfl, rfl⟩
  rw [← List.length_pos_iff, encodeCommand_length, chunkCount_eq]
  exact Nat.lt_of_lt_of_le Nat.one_pos (le_max_left _ _)

/-! ## DecodeOne and Parse over encoded frames (R158, 42_deframer R171, R172) -/

/-- A read of bytes that stand between others. -/
theorem memRead_middle (a m b : List Byte) : memRead (a ++ (m ++ b)) a.length m.length = leValue m := by
  simp [memRead]

theorem leValue_singleton (b : Byte) : leValue [b] = b.toNat := by simp

theorem wireFrame_append_eq (m₁ m₂ : Byte) (r : InboundRecord) (rest : List Byte) : wireFrame m₁ m₂ r ++ rest =
    ([m₁, r.opcode, r.seq] ++ le16 r.length) ++ (r.payload ++ (le32 r.checksum ++ (m₂ :: rest))) := by
  simp [wireFrame]

/-- DecodeOne gives back the record a frame stands for, whatever its markers and whatever follows it. -/
theorem decodeOne_wireFrame_append (m₁ m₂ : Byte) {r : InboundRecord} (hr : WholePayload r) (rest : List Byte) :
    decodeOne (wireFrame m₁ m₂ r ++ rest) 0 = .ok (r, 10 + r.payload.length) := by
  have hsize : (wireFrame m₁ m₂ r ++ rest).length = 10 + r.payload.length + rest.length := by simp
  rw [wireFrame_append_eq] at hsize ⊢
  generalize hbuf : ([m₁, r.opcode, r.seq] ++ le16 r.length) ++
    (r.payload ++ (le32 r.checksum ++ (m₂ :: rest))) = buf at hsize ⊢
  have hop : memRead buf (0 + 1) 1 = r.opcode.toNat := by
    rw [← hbuf]
    exact (memRead_middle [m₁] [r.opcode] _).trans (leValue_singleton _)
  have hseq : memRead buf (0 + 2) 1 = r.seq.toNat := by
    rw [← hbuf]
    exact (memRead_middle [m₁, r.opcode] [r.seq] _).trans (leValue_singleton _)
  have hlen : memRead buf (0 + 3) 2 = r.payload.length := by
    rw [← hbuf, hr, ← leValue_le16]
    exact memRead_middle [m₁, r.opcode, r.seq] (le16 r.length) _
  have hpay : (buf.drop (0 + 5)).take r.payload.length = r.payload := by
    rw [← hbuf]
    exact List.take_left
  have hcrc : memRead buf (0 + 5 + r.payload.length) 4 = r.checksum.toNat := by
    rw [← hbuf, ← leValue_le32]
    exact (memRead_append ([m₁, r.opcode, r.seq] ++ le16 r.length) _ r.payload.length 4).trans
      (memRead_middle r.payload (le32 r.checksum) _)
  simp only [decodeOne, hop, hseq, hlen, hpay, hcrc, hsize]
  rw [if_neg (by omega), if_neg (by omega), hr]
  simp

/-- Parse from the start of a run of whole frames to the end of the buffer. -/
theorem parseFrom_wireFrames (m₁ m₂ : Byte) {rs : List InboundRecord} (hrs : ∀ r ∈ rs, WholePayload r) (a : List Byte)
    {fuel : Nat} (hfuel : rs.length < fuel) :
    parseFrom (a ++ (rs.map (wireFrame m₁ m₂)).flatten) fuel a.length = (rs, none) := by
  induction rs generalizing a fuel with
  | nil =>
    obtain ⟨f, rfl⟩ := Nat.exists_eq_add_one.2 (Nat.zero_lt_of_lt hfuel)
    simp [parseFrom]
  | cons r rs ih =>
    obtain ⟨f, rfl⟩ := Nat.exists_eq_add_one.2 (Nat.zero_lt_of_lt hfuel)
    obtain ⟨hr, hrest⟩ := List.forall_mem_cons.1 hrs
    have hlater := ih hrest (a ++ wireFrame m₁ m₂ r) (fuel := f) (Nat.lt_of_succ_lt_succ hfuel)
    rw [List.append_assoc, List.length_append, wireFrame_length] at hlater
    rw [parseFrom, if_neg (by simp), decodeOne_append, List.map_cons, List.flatten_cons,
      decodeOne_wireFrame_append m₁ m₂ hr]
    simp only [hlater]

theorem parseBuffer_wireFrames (m₁ m₂ : Byte) {rs : List InboundRecord} (hrs : ∀ r ∈ rs, WholePayload r) :
    parseBuffer (rs.map (wireFrame m₁ m₂)).flatten = (rs, none) := by
  refine parseFrom_wireFrames m₁ m₂ hrs [] ?_
  rw [flatten_wireFrames_length]
  omega

/-- Settles O21: DecodeOne reads nothing before its offset, and at its offset stands frame k. -/
theorem decodeOneRecoversEveryEncodedFrame : Obligations.DecodeOneRecoversEveryEncodedFrame := by
  intro op payload key k c hc
  have hframe := encodeCommand_getElem? (op := op) (key := key) hc
  obtain ⟨hk, hget⟩ := List.getElem?_eq_some_iff.1 hframe
  have hsplit : (encodeCommand op payload key).flatten = ((encodeCommand op payload key).take k).flatten ++
      (frameBytes op (BitVec.ofNat 8 (k % 256)) c key ++ ((encodeCommand op payload key).drop (k + 1)).flatten) := by
    rw [← List.flatten_cons, ← hget, ← List.drop_eq_getElem_cons hk, ← List.flatten_append, List.take_append_drop]
  obtain ⟨-, rfl⟩ := splitPayload_getElem?_eq_some.1 hc
  have hle := chunkAt_length payload k
  rw [hsplit, decodeOne_append, frameBytes_eq_wireFrame,
    decodeOne_wireFrame_append _ _ (wholePayload_frameRecord _ _ _ (by omega))]
  rfl

/-- Settles O22: Parse gives the records that the frames of Encode stand for. -/
theorem parseOfEncodeRecoversThePayload : Obligations.ParseOfEncodeRecoversThePayload := by
  intro op payload key
  have hparse : parseBuffer (encodeCommand op payload key).flatten = (encodedRecords op payload key, none) := by
    rw [encodeCommand_eq_wireFrames]
    exact parseBuffer_wireFrames _ _ fun r hr => wholePayload_of_mem_encodedRecords hr
  dsimp only
  rw [hparse]
  refine ⟨rfl, ?_, encodedRecords_seq op payload key, ?_⟩
  · rw [encodedRecords_payload, flatten_splitPayload]
  · intro r hr
    obtain ⟨seq, c, -, rfl⟩ := mem_encodedRecords hr
    exact ⟨rfl, rfl, rfl⟩

/-! ## The byte-serial deframer over whole frames (R158, 42_deframer R174, R178, R180) -/

theorem runOps_expandRx_append {a b : List Byte} {s t : State} (h : runOps (expandRx a) s = .next t) :
    runOps (expandRx (a ++ b)) s = runOps (expandRx b) t := by
  rw [expandRx, List.map_append]
  exact runOps_append h

/-- A byte that does not complete a frame is stored (R174). -/
theorem exec_rxb_of_not_completes (b : Byte) {s : State} (h : rxCompletes s = false) :
    exec (.rxb b) s = .next (respondOk 0 { rxStore b s with rxPos := s.rxPos + 1 }) := by
  rcases exec_rxb_cases b s with ⟨hdone, _⟩ | ⟨_, hb⟩
  · simp [h] at hdone
  · exact hb

/-- The two writes of the length bytes fill RX_LEN. -/
theorem insertByte_length_both (v len : BitVec 16) :
    insertByte (insertByte v 0 (len.extractLsb' 0 8)) 1 (len.extractLsb' 8 8) = len := by
  obtain ⟨hlow, -, -⟩ := insertByte_length_bytes v (len.extractLsb' 0 8)
  obtain ⟨-, hkept, hhigh⟩ := insertByte_length_bytes (insertByte v 0 (len.extractLsb' 0 8)) (len.extractLsb' 8 8)
  exact eq_of_two_bytes_eq (hkept.trans hlow) hhigh

/-- The answers to `n` bytes that complete no frame. -/
def storedResponses (n : Nat) : List Response := List.replicate n ⟨0#8, 0#32⟩

@[simp] theorem storedResponses_append (m n : Nat) :
    storedResponses m ++ storedResponses n = storedResponses (m + n) :=
  List.replicate_append_replicate

/-- The header of a frame, from a frame boundary. -/
theorem runOps_rxb_header (m op seq : Byte) (len : BitVec 16) {s : State} (hpos : s.rxPos = 0) :
    runOps (expandRx ([m, op, seq] ++ le16 len)) s = .next { s with
      rxPos := 5, rxOp := op, rxSeq := seq, rxLen := len, responses := s.responses ++ storedResponses 5 } := by
  simp [expandRx, runOps, exec, execRxb, rxCompletes, rxStore, hpos, le16, insertByte_length_both, respondOk, respond,
    storedResponses]

theorem rxPos_ofNat_succ (n : Nat) : (BitVec.ofNat 17 n + 1 : BitVec 17) = BitVec.ofNat 17 (n + 1) := by
  apply BitVec.eq_of_toNat_eq
  simp

/-- A byte that RX_LEN still asks for goes to RX_PAY (R174, Table X1). -/
theorem exec_rxb_payload (b : Byte) {s : State} (hpos : s.rxPos = BitVec.ofNat 17 (5 + s.rxPay.length))
    (hfit : s.rxPay.length < s.rxLen.toNat) :
    exec (.rxb b) s = .next { s with
      rxPos := BitVec.ofNat 17 (5 + (s.rxPay ++ [b]).length), rxPay := s.rxPay ++ [b]
      responses := s.responses ++ storedResponses 1 } := by
  have hlen := s.rxLen.isLt
  have hp : s.rxPos.toNat = 5 + s.rxPay.length := by rw [hpos, BitVec.toNat_ofNat]; omega
  have hnot : rxCompletes s = false := by rw [← Bool.not_eq_true, rxCompletes_iff]; omega
  rw [exec_rxb_of_not_completes b hnot, rxStore_eq, if_neg (by omega), if_neg (by omega), if_neg (by omega),
    if_neg (by omega), if_pos (by omega), if_neg (by omega), hpos, rxPos_ofNat_succ, List.length_append]
  rfl

/-- A byte after the payload goes to RX_CRC, at its place in the checksum (R174, Table X1). -/
theorem exec_rxb_checksum (b : Byte) {s : State} {j : Nat} (hpos : s.rxPos = BitVec.ofNat 17 (5 + s.rxLen.toNat + j))
    (hj : j < 4) :
    exec (.rxb b) s = .next { s with
      rxPos := BitVec.ofNat 17 (5 + s.rxLen.toNat + (j + 1)), rxCrc := insertByte s.rxCrc j b
      responses := s.responses ++ storedResponses 1 } := by
  have hlen := s.rxLen.isLt
  have hp : s.rxPos.toNat = 5 + s.rxLen.toNat + j := by rw [hpos, BitVec.toNat_ofNat]; omega
  have hnot : rxCompletes s = false := by rw [← Bool.not_eq_true, rxCompletes_iff]; omega
  rw [exec_rxb_of_not_completes b hnot, rxStore_eq, if_neg (by omega), if_neg (by omega), if_neg (by omega),
    if_neg (by omega), if_neg (by omega), if_pos (by omega), hpos, rxPos_ofNat_succ, ← hpos, hp,
    show 5 + s.rxLen.toNat + j - 5 - s.rxLen.toNat = j by omega]
  rfl

/-- A stretch of payload, byte by byte. -/
theorem runOps_rxb_payload (pay : List Byte) {s : State} (hpos : s.rxPos = BitVec.ofNat 17 (5 + s.rxPay.length))
    (hfit : s.rxPay.length + pay.length ≤ s.rxLen.toNat) :
    runOps (expandRx pay) s = .next { s with
      rxPos := BitVec.ofNat 17 (5 + (s.rxPay ++ pay).length), rxPay := s.rxPay ++ pay
      responses := s.responses ++ storedResponses pay.length } := by
  induction pay generalizing s with
  | nil => simp [expandRx, runOps, storedResponses, ← hpos]
  | cons b pay ih =>
    rw [List.length_cons] at hfit
    simp only [expandRx, List.map_cons, runOps, exec_rxb_payload b hpos (by omega)]
    refine (ih rfl (by simp; omega)).trans ?_
    simp [Nat.add_comm 1]

/-- The four bytes of the checksum fill RX_CRC, whatever it held. -/
theorem insertByte_checksum (v crc : Word) :
    insertByte (insertByte (insertByte (insertByte v 0 (crc.extractLsb' 0 8)) 1 (crc.extractLsb' 8 8)) 2
      (crc.extractLsb' 16 8)) 3 (crc.extractLsb' 24 8) = crc := by
  apply eq_of_bytes_eq
  intro j hj
  rw [insertByte_extract _ _ _ _ (by omega) (by omega), insertByte_extract _ _ _ _ (by omega) (by omega),
    insertByte_extract _ _ _ _ (by omega) (by omega), insertByte_extract _ _ _ _ (by omega) (by omega)]
  interval_cases j <;> rfl

/-- The checksum of a frame, byte by byte. -/
theorem runOps_rxb_checksum (crc : Word) {s : State} (hpos : s.rxPos = BitVec.ofNat 17 (5 + s.rxLen.toNat)) :
    runOps (expandRx (le32 crc)) s = .next { s with
      rxPos := BitVec.ofNat 17 (9 + s.rxLen.toNat), rxCrc := crc
      responses := s.responses ++ storedResponses 4 } := by
  simp only [expandRx, le32, List.map_cons, List.map_nil, runOps]
  rw [exec_rxb_checksum (j := 0) _ hpos (by omega)]
  dsimp only
  rw [exec_rxb_checksum (j := 1) _ rfl (by omega)]
  dsimp only
  rw [exec_rxb_checksum (j := 2) _ rfl (by omega)]
  dsimp only
  rw [exec_rxb_checksum (j := 3) _ rfl (by omega)]
  dsimp only
  rw [insertByte_checksum]
  simp [Nat.add_right_comm]

/-- The byte that completes a frame: its record is delivered and the deframer is at a frame boundary (R174, R180). -/
theorem exec_rxb_of_completes (b : Byte) {s : State} (h : rxCompletes s = true) :
    ∃ resp, exec (.rxb b) s = .next { s with
      rxPos := 0, rxPay := [], records := s.records ++ [rxRecord s], responses := s.responses ++ [resp] } := by
  obtain ⟨resp, hdeliver, -⟩ := rxDeliver_frame s
  rcases exec_rxb_cases b s with ⟨_, hb⟩ | ⟨hnot, _⟩
  · exact ⟨resp, hb.trans (congrArg _ hdeliver)⟩
  · simp [h] at hnot

/-- A whole frame from a frame boundary: its record is delivered with its verdict, the deframer is at a frame boundary again, and
nothing but the RX registers and the two streams has changed (R174, R178, R180). -/
theorem runOps_rxb_wireFrame (m₁ m₂ : Byte) {r : InboundRecord} (hr : WholePayload r) {s : State} (hpos : s.rxPos = 0)
    (hpay : s.rxPay = []) : ∃ resps, runOps (expandRx (wireFrame m₁ m₂ r)) s = .next { s with
      rxPos := 0, rxPay := [], rxOp := r.opcode, rxSeq := r.seq, rxLen := r.length, rxCrc := r.checksum
      records := s.records ++ [⟨r, crcVerdict { s with rxPay := r.payload, rxCrc := r.checksum }⟩]
      responses := resps } := by
  obtain ⟨op, seq, len, pay, crc⟩ := r
  dsimp only [WholePayload] at hr
  have hlen := len.isLt
  have hheader := runOps_rxb_header m₁ op seq len hpos
  have hpayload := runOps_rxb_payload pay
    (s := { s with rxPos := 5, rxOp := op, rxSeq := seq, rxLen := len, responses := s.responses ++ storedResponses 5 })
    (by simp [hpay]) (by simp [hpay, hr])
  rw [wireFrame, List.append_assoc, List.append_assoc, runOps_expandRx_append hheader,
    runOps_expandRx_append hpayload]
  simp only [hpay, List.nil_append]
  rw [runOps_expandRx_append (runOps_rxb_checksum crc (by simp [hr]))]
  simp only [expandRx, List.map_cons, List.map_nil, runOps]
  obtain ⟨resp, hlast⟩ := exec_rxb_of_completes m₂ (s := { s with
    rxPos := BitVec.ofNat 17 (9 + len.toNat), rxOp := op, rxSeq := seq, rxLen := len, rxPay := pay, rxCrc := crc
    responses := s.responses ++ storedResponses 5 ++ storedResponses pay.length ++ storedResponses 4 })
    (rxCompletes_iff.2 (by simp only [BitVec.toNat_ofNat]; omega))
  exact ⟨_, by rw [hlast]; rfl⟩

/-- A record whose checksum is that of its payload under the active key verifies (R180). -/
theorem crcVerdict_eq_ok {s : State} (hverify : s.verifyEn = true) (hcrc : s.rxCrc = kcrc (activeKey s) s.rxPay) :
    crcVerdict s = .ok := by
  rw [crcVerdict, if_pos hverify, rxChecksum, if_pos hcrc.symm]

/-- Frames checksummed under the active key and given back with verification on are all delivered with verdict OK. -/
theorem runOps_rxb_wireFrames (m₁ m₂ : Byte) {rs : List InboundRecord} (hrs : ∀ r ∈ rs, WholePayload r) {s : State}
    (hkey : ∀ r ∈ rs, r.checksum = kcrc (activeKey s) r.payload) (hverify : s.verifyEn = true) (hpos : s.rxPos = 0)
    (hpay : s.rxPay = []) : ∃ u, runOps (expandRx (rs.map (wireFrame m₁ m₂)).flatten) s = .next u ∧
      u.records = s.records ++ rs.map (⟨·, .ok⟩) ∧ u.rxPos = 0 := by
  induction rs generalizing s with
  | nil => exact ⟨s, rfl, by simp, hpos⟩
  | cons r rs ih =>
    obtain ⟨hr, hrest⟩ := List.forall_mem_cons.1 hrs
    obtain ⟨hk, hkrest⟩ := List.forall_mem_cons.1 hkey
    obtain ⟨resps, hrun⟩ := runOps_rxb_wireFrame m₁ m₂ hr hpos hpay
    rw [crcVerdict_eq_ok (s := { s with rxPay := r.payload, rxCrc := r.checksum }) hverify hk] at hrun
    obtain ⟨u, hu, hrecs, hupos⟩ := ih hrest (s := { s with
      rxPos := 0, rxPay := [], rxOp := r.opcode, rxSeq := r.seq, rxLen := r.length, rxCrc := r.checksum
      records := s.records ++ [⟨r, .ok⟩], responses := resps }) hkrest hverify rfl rfl
    refine ⟨u, ?_, ?_, hupos⟩
    · rw [List.map_cons, List.flatten_cons, runOps_expandRx_append hrun, hu]
    · rw [hrecs, List.append_assoc]
      rfl

/-- Settles O32: the ENC leaves the active key, so each of its frames verifies. -/
theorem loopedBackFramesVerify : Obligations.LoopedBackFramesVerify := by
  intro s op data hk hpos hpay hverify hlen
  obtain ⟨u, hrun, hrecs, hupos⟩ := runOps_rxb_wireFrames Config.som Config.eom
    (rs := encodedRecords op data (activeKey s)) (fun r hr => wholePayload_of_mem_encodedRecords hr)
    (s := { s with
      tx := s.tx ++ encodeCommand op data (activeKey s)
      txSeq := BitVec.ofNat 8 (chunkCount data.length)
      responses := s.responses ++ [⟨0#8, BitVec.ofNat 32 (chunkCount data.length)⟩] })
    (fun r hr => by obtain ⟨_, _, _, rfl⟩ := mem_encodedRecords hr; rfl) hverify hpos hpay
  refine ⟨_, u, _, exec_enc_framed op hk hlen, ?_, hrecs, hupos, ?_, ?_⟩
  · rw [List.drop_left]
    rwa [← encodeCommand_eq_wireFrames] at hrun
  · rw [List.map_map]
    exact (congrArg List.flatten (encodedRecords_payload op data (activeKey s))).trans (flatten_splitPayload data)
  · rw [List.forall_mem_map]
    intro r hr
    obtain ⟨_, _, _, rfl⟩ := mem_encodedRecords hr
    exact ⟨rfl, rfl⟩

end Sys2Proof.Machine

/-! PROOFS of the family 42_deframer: DecodeOne and Parse over a whole buffer (42_deframer R171, R172), RXB and RXE (R174 to R181),
and that the byte-serial deframer agrees with Parse (R178). -/

namespace Sys2Proof.Machine

/-! ## Bytes of a 16-bit or 32-bit value (00_scope R12, R174) -/

/-- Any two bytes are LE16 of a value (00_scope R12). -/
theorem exists_le16_eq (lo hi : Byte) : ∃ v, le16 v = [lo, hi] := by
  refine ⟨hi ++ lo, ?_⟩
  simp only [le16, BitVec.extractLsb'_append_eq_of_add_le (show 0 + 8 ≤ 8 by omega),
    BitVec.extractLsb'_append_eq_of_le (show 8 ≤ 8 by omega), BitVec.extractLsb'_eq_self, Nat.sub_self]

/-- Any four bytes are LE32 of a value (00_scope R12). -/
theorem exists_le32_eq (a b c d : Byte) : ∃ v, le32 v = [a, b, c, d] := by
  refine ⟨BitVec.ofNat 32 (leValue [a, b, c, d]), ?_⟩
  simp only [le32, leValue_cons, leValue_nil, List.cons.injEq, and_true]
  refine ⟨?_, ?_, ?_, ?_⟩ <;> apply BitVec.eq_of_toNat_eq <;>
    simp only [BitVec.extractLsb'_toNat, BitVec.toNat_ofNat, Nat.shiftRight_eq_div_pow] <;> omega

/-- The bits of a register after the write of one byte (R174). -/
theorem getLsbD_insertByte {w : Nat} (v : BitVec w) (j : Nat) (b : Byte) {i : Nat} (hi : i < w) :
    (insertByte v j b).getLsbD i = if 8 * j ≤ i ∧ i < 8 * j + 8 then b.getLsbD (i - 8 * j) else v.getLsbD i := by
  have hmask (k : Nat) : (0xFF#8).getLsbD k = decide (k < 8) := BitVec.getLsbD_allOnes
  simp only [insertByte, BitVec.getLsbD_or, BitVec.getLsbD_and, BitVec.getLsbD_not, BitVec.getLsbD_shiftLeft,
    BitVec.getLsbD_setWidth, hmask]
  by_cases hlow : i < 8 * j
  · simp [hi, hlow, show ¬ 8 * j ≤ i by omega]
  · by_cases hin : i - 8 * j < 8
    · simp [hi, hlow, hin, show 8 * j ≤ i by omega, show i < 8 * j + 8 by omega, show i - 8 * j < w by omega]
    · simp [hi, hlow, hin, show ¬ i < 8 * j + 8 by omega, BitVec.getLsbD_of_ge b (i - 8 * j) (by omega)]

/-- A byte write as Table X1 gives it: the bits above, the byte, the bits below. -/
theorem insertByte_eq_append {n j : Nat} (v : BitVec (n + 8 + 8 * j)) (b : Byte) :
    insertByte v j b = v.extractLsb' (8 * j + 8) n ++ b ++ v.extractLsb' 0 (8 * j) := by
  apply BitVec.eq_of_getLsbD_eq
  intro i hi
  rw [getLsbD_insertByte v j b hi, BitVec.getLsbD_append, BitVec.getLsbD_append]
  by_cases hlow : i < 8 * j
  · simp [hlow, show ¬ 8 * j ≤ i by omega]
  · by_cases hin : i - 8 * j < 8
    · simp [hlow, hin, show 8 * j ≤ i by omega, show i < 8 * j + 8 by omega]
    · simp [hlow, hin, show ¬ i < 8 * j + 8 by omega, show i - 8 * j - 8 < n by omega,
        show 8 * j + 8 + (i - 8 * j - 8) = i by omega]

theorem zero_width_append_append {n k : Nat} (z : BitVec 0) (x : BitVec n) (y : BitVec k) :
    (z ++ x ++ y).toNat = (x ++ y).toNat := by
  simp [BitVec.toNat_append]

/-- RX_LEN after the write of its low byte, and of its high byte (Table X1). -/
theorem insertByte_length_eq (v : BitVec 16) (b : Byte) :
    insertByte v 0 b = v.extractLsb' 8 8 ++ b ∧ insertByte v 1 b = b ++ v.extractLsb' 0 8 :=
  ⟨(insertByte_eq_append (n := 8) (j := 0) v b).trans (BitVec.append_zero_width _ _),
    (insertByte_eq_append (n := 0) (j := 1) v b).trans (BitVec.eq_of_toNat_eq (zero_width_append_append _ _ _))⟩

/-- RX_CRC after the write of each of its bytes (Table X1). -/
theorem insertByte_checksum_eq (v : Word) (b : Byte) :
    insertByte v 0 b = v.extractLsb' 8 24 ++ b ∧
    insertByte v 1 b = v.extractLsb' 16 16 ++ b ++ v.extractLsb' 0 8 ∧
    insertByte v 2 b = v.extractLsb' 24 8 ++ b ++ v.extractLsb' 0 16 ∧
    insertByte v 3 b = b ++ v.extractLsb' 0 24 :=
  ⟨(insertByte_eq_append (n := 24) (j := 0) v b).trans (BitVec.append_zero_width _ _),
    insertByte_eq_append (n := 16) (j := 1) v b, insertByte_eq_append (n := 8) (j := 2) v b,
    (insertByte_eq_append (n := 0) (j := 3) v b).trans (BitVec.eq_of_toNat_eq (zero_width_append_append _ _ _))⟩

/-! ## A buffer is a truncated frame, or a whole frame and the rest (R171) -/

/-- A buffer too short for the frame it begins: the header, or what its length field declares, is not all there (R171). -/
def TruncatedFrame (buf : List Byte) : Prop := buf.length < 5 ∨ buf.length < 10 + memRead buf 3 2

/-- The header of a frame, where there are bytes for it (R92). -/
theorem exists_header {buf : List Byte} (h : 5 ≤ buf.length) :
    ∃ m op seq len body, buf = [m, op, seq] ++ le16 len ++ body := by
  match buf, h with
  | m :: op :: seq :: lo :: hi :: body, _ =>
    obtain ⟨len, hlen⟩ := exists_le16_eq lo hi
    exact ⟨m, op, seq, len, body, by rw [hlen]; rfl⟩

theorem memRead_header (m op seq : Byte) (len : BitVec 16) (body : List Byte) :
    memRead ([m, op, seq] ++ le16 len ++ body) 3 2 = len.toNat := by
  rw [List.append_assoc]
  exact (memRead_middle [m, op, seq] (le16 len) body).trans (leValue_le16 len)

theorem memRead_wireFrame_append (m₁ m₂ : Byte) {r : InboundRecord} (hr : WholePayload r) (rest : List Byte) :
    memRead (wireFrame m₁ m₂ r ++ rest) 3 2 = r.payload.length := by
  rw [wireFrame_append_eq, memRead_header, hr]

/-- A buffer that is not truncated begins with a whole frame. -/
theorem exists_wireFrame_of_not_truncated {buf : List Byte} (h : ¬ TruncatedFrame buf) :
    ∃ m₁ m₂ r rest, WholePayload r ∧ buf = wireFrame m₁ m₂ r ++ rest := by
  rw [TruncatedFrame, not_or] at h
  obtain ⟨hheader, hwhole⟩ := h
  obtain ⟨m, op, seq, len, body, rfl⟩ := exists_header (Nat.le_of_not_lt hheader)
  rw [memRead_header] at hwhole
  have hbody : 5 + len.toNat ≤ body.length := by simp at hwhole; omega
  match htail : body.drop len.toNat with
  | c₀ :: c₁ :: c₂ :: c₃ :: m₂ :: rest =>
    obtain ⟨crc, hcrc⟩ := exists_le32_eq c₀ c₁ c₂ c₃
    refine ⟨m, m₂, ⟨op, seq, len, body.take len.toNat, crc⟩, rest, ?_, ?_⟩
    · exact List.length_take_of_le (by omega)
    · rw [wireFrame_append_eq]
      simp only [hcrc, List.cons_append, List.nil_append, ← htail, List.take_append_drop]
  | [] | [_] | [_, _] | [_, _, _] | [_, _, _, _] =>
    have hlen := congrArg List.length htail
    simp only [List.length_drop, List.length_cons, List.length_nil] at hlen
    omega

/-- The induction Parse makes over a buffer (R172): it is a truncated frame, or a whole frame and the rest. -/
theorem buffer_induction {P : List Byte → Prop} (truncated : ∀ buf, TruncatedFrame buf → P buf)
    (frame : ∀ m₁ m₂ r rest, WholePayload r → P rest → P (wireFrame m₁ m₂ r ++ rest)) (buf : List Byte) : P buf := by
  by_cases h : TruncatedFrame buf
  · exact truncated buf h
  · obtain ⟨m₁, m₂, r, rest, hr, hbuf⟩ := exists_wireFrame_of_not_truncated h
    have hshorter : rest.length < buf.length := by rw [hbuf, List.length_append, wireFrame_length]; omega
    rw [hbuf]
    exact frame m₁ m₂ r rest hr (buffer_induction truncated frame rest)
termination_by buf.length

/-- What begins a truncated frame is a truncated frame. -/
theorem TruncatedFrame.take {buf : List Byte} (h : TruncatedFrame buf) (k : Nat) : TruncatedFrame (buf.take k) := by
  by_cases hk : k < 5
  · exact .inl (by rw [List.length_take]; omega)
  · have hread : memRead (buf.take k) 3 2 = memRead buf 3 2 := by
      rw [memRead, List.drop_take, List.take_take, Nat.min_eq_left (by omega), memRead]
    rw [TruncatedFrame, hread, List.length_take]
    exact h.imp (by omega) (by omega)

/-- A frame is truncated by the loss of its last byte, or of more. -/
theorem truncatedFrame_take_wireFrame (m₁ m₂ : Byte) {r : InboundRecord} (hr : WholePayload r) (rest : List Byte) {k : Nat}
    (hk : k < 10 + r.payload.length) : TruncatedFrame ((wireFrame m₁ m₂ r ++ rest).take k) := by
  by_cases h5 : k < 5
  · exact .inl (by rw [List.length_take]; omega)
  · refine .inr ?_
    rw [memRead, List.drop_take, List.take_take, Nat.min_eq_left (by omega), ← memRead, memRead_wireFrame_append m₁ m₂ hr,
      List.length_take]
    omega

/-! ## DecodeOne (R171) -/

theorem decodeOne_of_truncated {buf : List Byte} (h : TruncatedFrame buf) :
    decodeOne buf 0 = .error .truncationError := by
  simp only [decodeOne, Nat.zero_add, Nat.sub_zero]
  rcases h with hheader | hbody
  · rw [if_pos hheader]
  · rw [if_pos hbody, ite_self]

theorem exists_decodeOne_error_iff (buf : List Byte) : (∃ e, decodeOne buf 0 = .error e) ↔ TruncatedFrame buf := by
  refine ⟨fun ⟨e, he⟩ => by_contra fun hwhole => ?_, fun h => ⟨_, decodeOne_of_truncated h⟩⟩
  obtain ⟨m₁, m₂, r, rest, hr, rfl⟩ := exists_wireFrame_of_not_truncated hwhole
  rw [decodeOne_wireFrame_append m₁ m₂ hr] at he
  cases he

/-- A buffer on which DecodeOne succeeds begins with the frame of the record it gives. -/
theorem exists_wireFrame_of_decodeOne {buf : List Byte} {r : InboundRecord} {used : Nat}
    (h : decodeOne buf 0 = .ok (r, used)) : ∃ m₁ m₂ rest, WholePayload r ∧ buf = wireFrame m₁ m₂ r ++ rest ∧
      used = (wireFrame m₁ m₂ r).length := by
  by_cases htrunc : TruncatedFrame buf
  · rw [decodeOne_of_truncated htrunc] at h
    cases h
  · obtain ⟨m₁, m₂, r', rest, hr, rfl⟩ := exists_wireFrame_of_not_truncated htrunc
    rw [decodeOne_wireFrame_append m₁ m₂ hr, Except.ok.injEq, Prod.mk.injEq] at h
    obtain ⟨rfl, rfl⟩ := h
    exact ⟨m₁, m₂, rest, hr, rfl, (wireFrame_length m₁ m₂ r').symm⟩

/-- The two bytes of the length field, where the header is there. -/
theorem truncatedFrame_iff_length_bytes (buf : List Byte) : TruncatedFrame buf ↔ buf.length < 5 ∨
    ∃ lo hi, buf[3]? = some lo ∧ buf[4]? = some hi ∧ buf.length < 10 + (lo.toNat + 256 * hi.toNat) := by
  by_cases h5 : buf.length < 5
  · simp [TruncatedFrame, h5]
  · match buf, h5 with
    | m :: op :: seq :: lo :: hi :: body, _ => simp [TruncatedFrame, memRead]
    | [], h5 | [_], h5 | [_, _], h5 | [_, _, _], h5 | [_, _, _, _], h5 => simp at h5

/-- The checksum bytes of a frame follow its payload, lowest first (R92). -/
theorem wireFrame_getElem?_checksum (m₁ m₂ : Byte) {r : InboundRecord} (hr : WholePayload r) (rest : List Byte) {j : Nat}
    (hj : j < 4) :
    (wireFrame m₁ m₂ r ++ rest)[5 + r.length.toNat + j]? = some (r.checksum.extractLsb' (8 * j) 8) := by
  have hhead : ([m₁, r.opcode, r.seq] ++ le16 r.length ++ r.payload).length = 5 + r.length.toNat := by
    rw [← hr]
    simp
    omega
  rw [wireFrame_append_eq, ← List.append_assoc, ← hhead, List.getElem?_append_right (Nat.le_add_right _ j),
    Nat.add_sub_cancel_left, List.getElem?_append_left (by simpa using hj), le32_getElem? r.checksum hj]

/-- Settles O24: the offset splits the buffer, and DecodeOne reads the part after it. -/
theorem decodeOneFailsExactlyOnTruncation : Obligations.DecodeOneFailsExactlyOnTruncation := by
  intro buf off hoff
  obtain ⟨pre, b, rfl, rfl⟩ : ∃ pre b, buf = pre ++ b ∧ off = pre.length :=
    ⟨buf.take off, buf.drop off, (List.take_append_drop off buf).symm, by rw [List.length_take_of_le hoff]⟩
  have hget (k : Nat) : (pre ++ b)[pre.length + k]? = b[k]? := by
    rw [List.getElem?_append_right (Nat.le_add_right _ k), Nat.add_sub_cancel_left]
  have hrest : (pre ++ b).length - pre.length = b.length := by simp
  simp only [Nat.add_assoc, hget, hrest, decodeOne_append, drop_append_add, List.append_assoc]
  refine ⟨(exists_decodeOne_error_iff b).trans (truncatedFrame_iff_length_bytes b), fun e he => ?_,
    fun r used hok => ?_⟩
  · rw [decodeOne_of_truncated ((exists_decodeOne_error_iff b).1 ⟨e, he⟩), Except.error.injEq] at he
    exact he.symm
  · obtain ⟨m₁, m₂, rest, hr, rfl, rfl⟩ := exists_wireFrame_of_decodeOne hok
    refine ⟨by rw [wireFrame_length, hr], by simp, rfl, rfl, rfl, rfl, ?_, hr, fun j hj => ?_, fun extra => ?_⟩
    · rw [← hr, wireFrame_append_eq]
      exact List.take_left.symm
    · rw [← Nat.add_assoc]
      exact wireFrame_getElem?_checksum m₁ m₂ hr rest hj
    · rw [List.append_assoc, decodeOne_wireFrame_append m₁ m₂ hr, wireFrame_length]

/-! ## Parse (R172) -/

theorem parseFrom_nil (a : List Byte) (fuel : Nat) : parseFrom a (fuel + 1) a.length = ([], none) := by
  rw [parseFrom, if_pos rfl]

theorem parseFrom_of_truncated (a : List Byte) {b : List Byte} (hb : b ≠ []) (h : TruncatedFrame b) (fuel : Nat) :
    parseFrom (a ++ b) (fuel + 1) a.length = ([], some .truncationError) := by
  have hmore : a.length ≠ (a ++ b).length := by simpa using hb
  rw [parseFrom, if_neg hmore, decodeOne_append, decodeOne_of_truncated h]

theorem parseFrom_wireFrame_append (a : List Byte) (m₁ m₂ : Byte) {r : InboundRecord} (hr : WholePayload r)
    (rest : List Byte) (fuel : Nat) :
    parseFrom (a ++ (wireFrame m₁ m₂ r ++ rest)) (fuel + 1) a.length =
      (r :: (parseFrom (a ++ wireFrame m₁ m₂ r ++ rest) fuel (a ++ wireFrame m₁ m₂ r).length).1,
        (parseFrom (a ++ wireFrame m₁ m₂ r ++ rest) fuel (a ++ wireFrame m₁ m₂ r).length).2) := by
  have hmore : a.length ≠ (a ++ (wireFrame m₁ m₂ r ++ rest)).length := by simp
  rw [parseFrom, if_neg hmore, decodeOne_append, decodeOne_wireFrame_append m₁ m₂ hr, List.append_assoc,
    List.length_append, wireFrame_length]

/-- What Parse finds from an offset depends on the bytes from there on alone, and any number of passes above their number is
enough. -/
theorem parseFrom_append_eq_parseBuffer (a b : List Byte) {fuel : Nat} (hfuel : b.length < fuel) :
    parseFrom (a ++ b) fuel a.length = parseBuffer b := by
  suffices h : ∀ a' fuel', b.length < fuel' → parseFrom (a ++ b) fuel a.length = parseFrom (a' ++ b) fuel' a'.length from
    h [] _ (Nat.lt_succ_self _)
  intro a' fuel' hfuel'
  induction b using buffer_induction generalizing a fuel a' fuel' with
  | truncated b hb =>
    obtain ⟨f, rfl⟩ := Nat.exists_eq_add_one.2 (Nat.zero_lt_of_lt hfuel)
    obtain ⟨f', rfl⟩ := Nat.exists_eq_add_one.2 (Nat.zero_lt_of_lt hfuel')
    by_cases hnil : b = []
    · rw [hnil, List.append_nil, List.append_nil, parseFrom_nil, parseFrom_nil]
    · rw [parseFrom_of_truncated a hnil hb, parseFrom_of_truncated a' hnil hb]
  | frame m₁ m₂ r rest hr ih =>
    obtain ⟨f, rfl⟩ := Nat.exists_eq_add_one.2 (Nat.zero_lt_of_lt hfuel)
    obtain ⟨f', rfl⟩ := Nat.exists_eq_add_one.2 (Nat.zero_lt_of_lt hfuel')
    rw [List.length_append, wireFrame_length] at hfuel hfuel'
    rw [parseFrom_wireFrame_append a m₁ m₂ hr, parseFrom_wireFrame_append a' m₁ m₂ hr,
      ih (a ++ wireFrame m₁ m₂ r) (by omega) (a' ++ wireFrame m₁ m₂ r) f' (by omega)]

@[simp] theorem parseBuffer_nil : parseBuffer [] = ([], none) := rfl

theorem parseBuffer_of_truncated {buf : List Byte} (hbuf : buf ≠ []) (h : TruncatedFrame buf) :
    parseBuffer buf = ([], some .truncationError) :=
  parseFrom_of_truncated [] hbuf h _

theorem parseBuffer_truncated_records {buf : List Byte} (h : TruncatedFrame buf) : (parseBuffer buf).1 = [] := by
  by_cases hnil : buf = []
  · rw [hnil, parseBuffer_nil]
  · rw [parseBuffer_of_truncated hnil h]

theorem parseBuffer_wireFrame_append (m₁ m₂ : Byte) {r : InboundRecord} (hr : WholePayload r) (rest : List Byte) :
    parseBuffer (wireFrame m₁ m₂ r ++ rest) = (r :: (parseBuffer rest).1, (parseBuffer rest).2) := by
  have hstep := parseFrom_wireFrame_append [] m₁ m₂ hr rest (wireFrame m₁ m₂ r ++ rest).length
  rw [List.nil_append, parseFrom_append_eq_parseBuffer _ rest (by simp)] at hstep
  exact hstep

@[simp] theorem consumedBytes_nil : consumedBytes [] = 0 := rfl

@[simp] theorem consumedBytes_cons (r : InboundRecord) (rs : List InboundRecord) :
    consumedBytes (r :: rs) = 10 + r.length.toNat + consumedBytes rs := by
  simp [consumedBytes]

/-- The records of Parse account for at most the buffer (R172, R178). -/
theorem consumedBytes_parseBuffer_le (buf : List Byte) : consumedBytes (parseBuffer buf).1 ≤ buf.length := by
  induction buf using buffer_induction with
  | truncated buf h => simp [parseBuffer_truncated_records h]
  | frame m₁ m₂ r rest hr ih =>
    rw [parseBuffer_wireFrame_append m₁ m₂ hr, consumedBytes_cons, List.length_append, wireFrame_length, hr]
    omega

/-- Parse has no error exactly when its records account for the whole buffer (R172). -/
theorem parseBuffer_no_error_iff (buf : List Byte) :
    (parseBuffer buf).2 = none ↔ consumedBytes (parseBuffer buf).1 = buf.length := by
  induction buf using buffer_induction with
  | truncated buf h =>
    by_cases hnil : buf = []
    · simp [hnil]
    · simp [parseBuffer_of_truncated hnil h, (List.length_pos_iff.2 hnil).ne]
  | frame m₁ m₂ r rest hr ih =>
    rw [parseBuffer_wireFrame_append m₁ m₂ hr, consumedBytes_cons, List.length_append, wireFrame_length, hr, ih]
    omega

/-- The only error of Parse is TruncationError (R172). -/
theorem parseBuffer_error (buf : List Byte) :
    (parseBuffer buf).2 = none ∨ (parseBuffer buf).2 = some .truncationError := by
  induction buf using buffer_induction with
  | truncated buf h =>
    by_cases hnil : buf = []
    · exact .inl (by rw [hnil, parseBuffer_nil])
    · exact .inr (by rw [parseBuffer_of_truncated hnil h])
  | frame m₁ m₂ r rest hr ih => rwa [parseBuffer_wireFrame_append m₁ m₂ hr]

/-- Parse of the first `k` bytes gives the records whose frames end within them (R178). -/
theorem parseBuffer_take (buf : List Byte) (k : Nat) : ∃ m ≤ (parseBuffer buf).1.length,
    (parseBuffer (buf.take k)).1 = (parseBuffer buf).1.take m ∧ consumedBytes ((parseBuffer buf).1.take m) ≤ k ∧
      (m < (parseBuffer buf).1.length → k < consumedBytes ((parseBuffer buf).1.take (m + 1))) := by
  induction buf using buffer_induction generalizing k with
  | truncated buf h =>
    refine ⟨0, Nat.zero_le _, ?_⟩
    simp [parseBuffer_truncated_records h, parseBuffer_truncated_records (h.take k)]
  | frame m₁ m₂ r rest hr ih =>
    rw [parseBuffer_wireFrame_append m₁ m₂ hr]
    by_cases hk : k < 10 + r.payload.length
    · refine ⟨0, Nat.zero_le _, ?_, by simp, fun _ => ?_⟩
      · rw [parseBuffer_truncated_records (truncatedFrame_take_wireFrame m₁ m₂ hr rest hk), List.take_zero]
      · rw [hr] at hk
        simpa using hk
    · obtain ⟨m, hm, hrecs, hle, hnext⟩ := ih (k - (wireFrame m₁ m₂ r).length)
      rw [wireFrame_length] at hle hnext
      have hfirst : (wireFrame m₁ m₂ r ++ rest).take k =
          wireFrame m₁ m₂ r ++ rest.take (k - (wireFrame m₁ m₂ r).length) := by
        rw [List.take_append, List.take_of_length_le (by rw [wireFrame_length]; omega)]
      rw [hr] at hk hle hnext
      refine ⟨m + 1, Nat.succ_le_succ hm, ?_, ?_, fun hlt => ?_⟩
      · rw [hfirst, parseBuffer_wireFrame_append m₁ m₂ hr, hrecs, List.take_succ_cons]
      · rw [List.take_succ_cons, consumedBytes_cons]
        omega
      · have hless := hnext (Nat.lt_of_succ_lt_succ hlt)
        rw [List.take_succ_cons, consumedBytes_cons]
        omega

/-- Settles O26: Parse of a truncated frame, and of a whole frame and the rest. -/
theorem parseAccountsForTheBuffer : Obligations.ParseAccountsForTheBuffer := by
  refine ⟨fun buf => ⟨consumedBytes_parseBuffer_le buf, parseBuffer_no_error_iff buf, parseBuffer_error buf⟩,
    parseBuffer_nil, fun buf e hbuf he => ?_, fun buf r used hok => ?_⟩
  · exact parseBuffer_of_truncated hbuf ((exists_decodeOne_error_iff buf).1 ⟨e, he⟩)
  · obtain ⟨m₁, m₂, rest, hr, rfl, rfl⟩ := exists_wireFrame_of_decodeOne hok
    rw [List.drop_left, parseBuffer_wireFrame_append m₁ m₂ hr]

/-! ## RXB (R174, R180) -/

theorem ofNat_rxPos_succ (p : BitVec 17) : BitVec.ofNat 17 (p.toNat + 1) = p + 1 := by
  rw [← rxPos_ofNat_succ, BitVec.ofNat_toNat, BitVec.setWidth_eq]

/-- The store into RX_CRC, one row of Table X1 per position. -/
theorem rxCrc_store_eq (v : Word) (b : Byte) (p n : Nat) :
    (if 5 + n ≤ p ∧ p < 9 + n then insertByte v (p - 5 - n) b else v) =
      if p < 5 then v
      else if p = 5 + n then v.extractLsb' 8 24 ++ b
      else if p = 6 + n then v.extractLsb' 16 16 ++ b ++ v.extractLsb' 0 8
      else if p = 7 + n then v.extractLsb' 24 8 ++ b ++ v.extractLsb' 0 16
      else if p = 8 + n then b ++ v.extractLsb' 0 24
      else v := by
  obtain ⟨h0, h1, h2, h3⟩ := insertByte_checksum_eq v b
  by_cases hin : 5 + n ≤ p ∧ p < 9 + n
  · rw [if_pos hin, if_neg (by omega), ← h0, ← h1, ← h2, ← h3]
    rcases (show p = 5 + n ∨ p = 6 + n ∨ p = 7 + n ∨ p = 8 + n by omega) with rfl | rfl | rfl | rfl
    · simp
    · simp [show 6 + n - 5 - n = 1 by omega]
    · simp [show 7 + n - 5 - n = 2 by omega]
    · simp [show 8 + n - 5 - n = 3 by omega]
  · rw [if_neg hin, if_neg (show p ≠ 5 + n by omega), if_neg (show p ≠ 6 + n by omega),
      if_neg (show p ≠ 7 + n by omega), if_neg (show p ≠ 8 + n by omega), ite_self]

/-- Settles O27: the store of the byte register by register, each byte write as Table X1 gives it. -/
theorem rxbStoresTheByteWhereItsPositionSays : Obligations.RxbStoresTheByteWhereItsPositionSays := by
  intro s b h
  have hnot : rxCompletes s = false := by rw [← Bool.not_eq_true, rxCompletes_iff]; omega
  obtain ⟨hlow, hhigh⟩ := insertByte_length_eq s.rxLen b
  rw [exec_rxb_of_not_completes b hnot, rxStore_eq, ofNat_rxPos_succ, hlow, hhigh, rxCrc_store_eq]
  rfl

/-- The byte that completes a frame delivers its record (R174, R180). -/
theorem exec_rxb_eq_rxDeliver (b : Byte) {s : State} (h : rxCompletes s = true) :
    exec (.rxb b) s = .next (rxDeliver s) := by
  rcases exec_rxb_cases b s with ⟨_, hb⟩ | ⟨hnot, _⟩
  · exact hb
  · simp [h] at hnot

/-- With the switch off no checksum is compared (R180). -/
theorem crcVerdict_eq_notChecked {s : State} (h : s.verifyEn = false) : crcVerdict s = .notChecked := by
  simp [crcVerdict, h]

/-- Settles O28: the verdict is `crcVerdict` of the state before the byte. -/
theorem rxbDeliversTheCompletedRecordWithItsVerdict : Obligations.RxbDeliversTheCompletedRecordWithItsVerdict := by
  intro s b h5 hlast
  have hexec := exec_rxb_eq_rxDeliver b (rxCompletes_iff.2 ⟨h5, hlast⟩)
  obtain ⟨resp, hdeliver, hbad, hgood⟩ := rxDeliver_frame s
  refine ⟨crcVerdict s, resp, hexec.trans (congrArg _ hdeliver), fun hoff => ?_, fun hon heq => ?_, fun hon hne => ?_⟩
  · have hv : crcVerdict s = .notChecked := crcVerdict_eq_notChecked hoff
    exact ⟨hv, hgood (by rw [hv]; decide)⟩
  · have hv : crcVerdict s = .ok := crcVerdict_eq_ok hon heq.symm
    exact ⟨hv, hgood (by rw [hv]; decide)⟩
  · have hv : crcVerdict s = .mismatch := (crcVerdict_eq_mismatch_iff s).2 ⟨hon, hne⟩
    exact ⟨hv, hbad hv⟩

/-! ## RXE (R176) -/

/-- RXE inside a frame drops the frame and reports the number of its bytes. -/
theorem exec_rxe_of_incomplete {s : State} (h : s.rxPos ≠ 0) : exec .rxe s = .next { s with
    rxPos := 0, rxPay := [], responses := s.responses ++ [⟨0x03#8, BitVec.ofNat 32 s.rxPos.toNat⟩] } := by
  rcases exec_rxe_cases s with ⟨_, hexec⟩ | ⟨hzero, _⟩
  · rw [hexec, BitVec.ofNat_toNat]
    rfl
  · exact absurd hzero h

/-- RXE at a frame boundary answers OK. -/
theorem exec_rxe_at_boundary {s : State} (h : s.rxPos = 0) : exec .rxe s = .next { s with
    rxPay := [], responses := s.responses ++ [⟨0#8, 0#32⟩] } := by
  rcases exec_rxe_cases s with ⟨hne, _⟩ | ⟨_, hexec⟩
  · exact absurd h hne
  · rw [hexec, frameBoundary, ← h]
    rfl

/-- Settles O29: under the deframer invariant RX_PAY is empty at a frame boundary, so RXE has nothing to drop. -/
theorem rxeReportsAnIncompleteFrame : Obligations.RxeReportsAnIncompleteFrame := by
  refine ⟨rfl, malformedIsRefused 7, fun s => ⟨exec_rxe_of_incomplete, exec_rxe_at_boundary, fun hdef hpos => ?_,
    DeframerInv.rxPos_le⟩⟩
  obtain ⟨hheader, -⟩ := hdef
  have hempty : s.rxPay = [] := hheader (by rw [hpos]; decide)
  rw [exec_rxe_at_boundary hpos, ← hempty]

/-! ## The byte-serial deframer over a buffer (R174, R178) -/

/-- A position that a 17-bit register holds with room to spare advances without wrapping. -/
theorem rxPos_succ_toNat_of_lt {p : BitVec 17} (h : p.toNat < 131071) : (p + 1).toNat = p.toNat + 1 :=
  (BitVec.toNat_add p 1).trans (Nat.mod_eq_of_lt (by simp; omega))

/-- Bytes that do not reach the end of the header, or of the frame once its length is known, are counted and deliver nothing. -/
theorem runOps_rxb_within_frame (bs : List Byte) {s : State}
    (h : s.rxPos.toNat + bs.length ≤ 5 ∨ 5 ≤ s.rxPos.toNat ∧ s.rxPos.toNat + bs.length ≤ 9 + s.rxLen.toNat) :
    ∃ t, runOps (expandRx bs) s = .next t ∧ t.records = s.records ∧ t.rxPos.toNat = s.rxPos.toNat + bs.length := by
  induction bs generalizing s with
  | nil => exact ⟨s, rfl, rfl, rfl⟩
  | cons b bs ih =>
    have hlen := s.rxLen.isLt
    rw [List.length_cons] at h
    have hnot : rxCompletes s = false := by rw [← Bool.not_eq_true, rxCompletes_iff]; omega
    have hpos := rxPos_succ_toNat_of_lt (p := s.rxPos) (by omega)
    have hkept : 5 ≤ s.rxPos.toNat → (rxStore b s).rxLen = s.rxLen := fun h5 => by
      rw [rxStore_eq]
      dsimp only
      rw [if_neg (by omega), if_neg (by omega)]
    obtain ⟨t, hrun, hrecs, htpos⟩ := ih (s := respondOk 0 { rxStore b s with rxPos := s.rxPos + 1 }) (by
      dsimp only [respondOk_rxPos, respondOk_rxLen]
      rw [hpos]
      rcases h with hheader | ⟨h5, hbody⟩
      · exact .inl (by omega)
      · exact .inr ⟨by omega, by rw [hkept h5]; omega⟩)
    refine ⟨t, ?_, ?_, ?_⟩
    · simpa only [expandRx, List.map_cons, runOps, exec_rxb_of_not_completes b hnot] using hrun
    · rw [hrecs, rxStore_eq]
      rfl
    · rw [htpos, List.length_cons, respondOk_rxPos, hpos]
      omega

/-- A truncated frame from a frame boundary: every byte is counted and nothing is delivered. -/
theorem runOps_rxb_truncated {buf : List Byte} (h : TruncatedFrame buf) {s : State} (hpos : s.rxPos = 0) :
    ∃ t, runOps (expandRx buf) s = .next t ∧ t.records = s.records ∧ t.rxPos.toNat = buf.length := by
  by_cases h5 : buf.length < 5
  · obtain ⟨t, hrun, hrecs, htpos⟩ := runOps_rxb_within_frame buf (s := s) (.inl (by simp [hpos]; omega))
    exact ⟨t, hrun, hrecs, by simpa [hpos] using htpos⟩
  · obtain ⟨m, op, seq, len, body, rfl⟩ := exists_header (Nat.le_of_not_lt h5)
    have hshort := h.resolve_left h5
    rw [memRead_header] at hshort
    simp only [List.length_append, List.length_cons, List.length_nil, le16_length] at hshort ⊢
    rw [runOps_expandRx_append (runOps_rxb_header m op seq len hpos)]
    exact runOps_rxb_within_frame body (.inr ⟨by simp, by simp; omega⟩)

/-- A buffer from a frame boundary: the records of Parse are delivered in order, and RX_POS counts the bytes they leave over. -/
theorem runOps_rxb_buffer (buf : List Byte) {s : State} (hpos : s.rxPos = 0) (hpay : s.rxPay = []) :
    ∃ t new, runOps (expandRx buf) s = .next t ∧ t.records = s.records ++ new ∧
      new.map (·.toInboundRecord) = (parseBuffer buf).1 ∧
      t.rxPos.toNat = buf.length - consumedBytes (parseBuffer buf).1 := by
  induction buf using buffer_induction generalizing s with
  | truncated buf h =>
    obtain ⟨t, hrun, hrecs, htpos⟩ := runOps_rxb_truncated h hpos
    rw [parseBuffer_truncated_records h]
    exact ⟨t, [], hrun, by rw [hrecs, List.append_nil], rfl, htpos⟩
  | frame m₁ m₂ r rest hr ih =>
    obtain ⟨resps, hframe⟩ := runOps_rxb_wireFrame m₁ m₂ hr hpos hpay
    rw [runOps_expandRx_append hframe, parseBuffer_wireFrame_append m₁ m₂ hr, consumedBytes_cons, List.length_append,
      wireFrame_length, hr, Nat.add_sub_add_left]
    obtain ⟨t, new, hrun, hrecs, hparse, htpos⟩ := ih (s := { s with
      rxPos := 0, rxPay := [], rxOp := r.opcode, rxSeq := r.seq, rxLen := r.length, rxCrc := r.checksum
      records := s.records ++ [⟨r, crcVerdict { s with rxPay := r.payload, rxCrc := r.checksum }⟩]
      responses := resps }) rfl rfl
    refine ⟨t, _ :: new, hrun, hrecs.trans (List.append_assoc _ _ _), ?_, htpos⟩
    rw [List.map_cons, hparse]

theorem runOps_singleton (i : Instr) (s : State) : runOps [i] s = exec i s := by
  obtain ⟨t, ht⟩ := exec_total i s
  simp only [runOps, ht]

/-- Settles O30: the bytes by `runOps_rxb_buffer`; RX_POS is zero before the RXE exactly when Parse has no error. -/
theorem byteSerialDeframerAgreesWithParse : Obligations.ByteSerialDeframerAgreesWithParse := by
  intro s buf hpos hpay
  obtain ⟨t, new, hrun, hrecs, hparse, htpos⟩ := runOps_rxb_buffer buf hpos hpay
  have hend : runOps (expandParse buf) s = exec .rxe t := by
    rw [expandParse, runOps_append hrun, runOps_singleton]
  have hnone : (parseBuffer buf).2 = none ↔ t.rxPos = 0 := by
    have hle := consumedBytes_parseBuffer_le buf
    rw [parseBuffer_no_error_iff, ← BitVec.toNat_inj, htpos]
    simp only [BitVec.ofNat_eq_ofNat, BitVec.toNat_ofNat, Nat.zero_mod]
    omega
  by_cases hzero : t.rxPos = 0
  · have hexec := exec_rxe_at_boundary hzero
    refine ⟨t, _, new, hrun, hexec, hend.trans hexec, hrecs, rfl, hparse, htpos, fun _ => rfl, fun e he => ?_, hzero, rfl⟩
    rw [hnone.2 hzero] at he
    cases he
  · have hexec := exec_rxe_of_incomplete hzero
    exact ⟨t, _, new, hrun, hexec, hend.trans hexec, hrecs, rfl, hparse, htpos, fun h => absurd (hnone.1 h) hzero,
      fun _ _ => by rw [htpos], rfl, rfl⟩

/-- Settles O31: the first bytes of the buffer deliver the records of Parse of those bytes. -/
theorem eachRecordIsDeliveredByItsLastByte : Obligations.EachRecordIsDeliveredByItsLastByte := by
  intro s buf k hpos hpay _
  obtain ⟨t, new, hrun, hrecs, hparse, -⟩ := runOps_rxb_buffer (buf.take k) hpos hpay
  obtain ⟨m, hm, htake, hle, hnext⟩ := parseBuffer_take buf k
  exact ⟨t, new, m, hrun, hrecs, hparse.trans htake, hm, hle, hnext⟩

end Sys2Proof.Machine

/-! PROOFS of the family 43_keyexchange: the operations KEXB, KEXC and KEXA (43_keyexchange R203 to R206), the key-exchange state
machine (R200, Table K1), the handshake (R208) and the ordering law (R209). -/

namespace Sys2Proof.Machine

/-! ## KEXB, KEXC and KEXA, by the phase they are issued in (43_keyexchange R203 to R206) -/

/-- The frame KEXB emits: the wire value of the candidate, checksummed under the default key (R201, R203). -/
def setCrcKeyFrame (k : Word) : Frame :=
  frameBytes (Config.opc .setCrcKey) 0 (le32 (k ^^^ 0x35769521#32)) 0x35769521#32

/-- The 14 bytes of R203. -/
theorem setCrcKeyFrame_eq (k : Word) : setCrcKeyFrame k =
    [0x02#8, Config.opc .setCrcKey, 0x00#8, 0x04#8, 0x00#8] ++ le32 (k ^^^ 0x35769521#32) ++
      le32 (kcrc 0x35769521#32 (le32 (k ^^^ 0x35769521#32))) ++ [0x03#8] := by
  rw [setCrcKeyFrame, frameBytes, le32_length, le16_ofNat (by decide)]
  rfl

/-- KEXB with nothing negotiated and nothing pending: the active key is the default key, whatever the candidate. -/
theorem exec_kexb_unkeyed (k : Word) {s : State} (hneg : s.neg = false) (hkexp : s.kexp = false) :
    exec (.kexb k) s = .next { s with
      tx := s.tx ++ [setCrcKeyFrame k]
      txSeq := 1, pkey := some k, kexp := true
      responses := s.responses ++ [⟨0#8, 1#32⟩] } := by
  rcases exec_kexb_cases k s with ⟨hbusy, _⟩ | ⟨_, _, hexec⟩
  · simp [hneg, hkexp] at hbusy
  · rw [hexec, activeKey_unnegotiated hneg]
    rfl

theorem exec_kexb_refused (k : Word) {s : State} (h : s.neg = true ∨ s.kexp = true) :
    exec (.kexb k) s = .next { s with responses := s.responses ++ [⟨0x06#8, 0x00000003#32⟩] } := by
  rcases exec_kexb_cases k s with ⟨_, hexec⟩ | ⟨hneg, hkexp, _⟩
  · exact hexec
  · simp [hneg, hkexp] at h

theorem exec_kexc_pending {s : State} {k : Word} (hkexp : s.kexp = true) (hpkey : s.pkey = some k) :
    exec .kexc s = .next { s with
      skey := some k, neg := true, pkey := none, kexp := false
      responses := s.responses ++ [⟨0#8, 0#32⟩] } := by
  rcases exec_kexc_cases s with ⟨_, hexec⟩ | ⟨hidle, _⟩
  · rw [hexec, hpkey]
    rfl
  · simp [hkexp] at hidle

theorem exec_kexc_refused {s : State} (hkexp : s.kexp = false) :
    exec .kexc s = .next { s with responses := s.responses ++ [⟨0x06#8, 0x00000004#32⟩] } := by
  rcases exec_kexc_cases s with ⟨hpending, _⟩ | ⟨_, hexec⟩
  · simp [hkexp] at hpending
  · exact hexec

theorem exec_kexa_pending {s : State} (hkexp : s.kexp = true) :
    exec .kexa s = .next { s with
      pkey := none, kexp := false, responses := s.responses ++ [⟨0#8, 0#32⟩] } := by
  rcases exec_kexa_cases s with ⟨_, hexec⟩ | ⟨hidle, _⟩
  · exact hexec
  · simp [hkexp] at hidle

theorem exec_kexa_refused {s : State} (hkexp : s.kexp = false) :
    exec .kexa s = .next { s with responses := s.responses ++ [⟨0x06#8, 0x00000005#32⟩] } := by
  rcases exec_kexa_cases s with ⟨hpending, _⟩ | ⟨_, hexec⟩
  · simp [hkexp] at hpending
  · exact hexec

/-! ## The phases (R200) -/

theorem keyPhase_eq_keyed_iff {s : State} : keyPhase s = .keyed ↔ s.neg = true := by
  cases hn : s.neg <;> cases hk : s.kexp <;> simp [keyPhase, hn, hk]

theorem keyPhase_eq_pending_iff {s : State} : keyPhase s = .pending ↔ s.neg = false ∧ s.kexp = true := by
  cases hn : s.neg <;> cases hk : s.kexp <;> simp [keyPhase, hn, hk]

theorem keyPhase_eq_unkeyed_iff {s : State} : keyPhase s = .unkeyed ↔ s.neg = false ∧ s.kexp = false := by
  cases hn : s.neg <;> cases hk : s.kexp <;> simp [keyPhase, hn, hk]

/-- A refusal leaves the phase. -/
theorem keyPhase_raiseError (e : ErrorKind) (info : Word) (s : State) : keyPhase (raiseError e info s) = keyPhase s := rfl

/-- Outside Keyed every checksum uses the default key. -/
theorem activeKey_of_not_keyed {s : State} (h : keyPhase s ≠ .keyed) : activeKey s = 0x35769521#32 :=
  activeKey_unnegotiated (Bool.eq_false_iff.2 (mt keyPhase_eq_keyed_iff.2 h))

/-- Under the keyring invariant a pending exchange is not a keyed session. -/
theorem KeyringInv.neg_of_pending {s : State} (h : KeyringInv s) (hkexp : s.kexp = true) : s.neg = false := by
  obtain ⟨-, -, hboth⟩ := h
  exact Bool.eq_false_iff.2 fun hneg => hboth ⟨hneg, hkexp⟩

/-- Under the keyring invariant nothing is pending in a keyed session. -/
theorem KeyringInv.kexp_of_keyed {s : State} (h : KeyringInv s) (hneg : s.neg = true) : s.kexp = false := by
  obtain ⟨-, -, hboth⟩ := h
  exact Bool.eq_false_iff.2 fun hkexp => hboth ⟨hneg, hkexp⟩

/-- Under the keyring invariant PKEY is empty while nothing is pending. -/
theorem KeyringInv.pkey_of_idle {s : State} (h : KeyringInv s) (hkexp : s.kexp = false) : s.pkey = none := by
  obtain ⟨-, hpkey, -⟩ := h
  simpa [hkexp] using hpkey

/-! ## The rules of the three operations (R201 to R206) -/

/-- Settles O33, by the rule of KEXB in Unkeyed and its refusal elsewhere. -/
theorem kexbFramesTheWireValueUnderTheDefaultKey : Obligations.KexbFramesTheWireValueUnderTheDefaultKey := by
  intro s k
  refine ⟨decode_encode (i := .kexb k) rfl, malformedIsRefused 3, fun hneg hkexp => ?_, exec_kexb_refused k⟩
  rw [exec_kexb_unkeyed k hneg hkexp, setCrcKeyFrame_eq]

/-- Settles O34: SKEY holds the candidate and NEG is set, so it is the active key. -/
theorem kexcActivatesTheCandidate : Obligations.KexcActivatesTheCandidate :=
  ⟨decode_encode (i := .kexc) rfl, malformedIsRefused 4, fun _ =>
    ⟨fun _ hkexp hpkey => ⟨_, exec_kexc_pending hkexp hpkey, activeKey_negotiated rfl rfl, rfl⟩,
      exec_kexc_refused⟩⟩

/-- Settles O35: in Pending NEG is 0, and KEXA leaves it. -/
theorem kexaDropsTheCandidate : Obligations.KexaDropsTheCandidate := by
  refine ⟨decode_encode (i := .kexa) rfl, malformedIsRefused 5, fun s =>
    ⟨exec_kexa_pending, exec_kexa_refused, fun hinv hkexp => ⟨_, exec_kexa_pending hkexp, ?_, ?_⟩⟩⟩
  · exact keyPhase_eq_unkeyed_iff.2 ⟨hinv.neg_of_pending hkexp, rfl⟩
  · exact activeKey_unnegotiated (hinv.neg_of_pending hkexp)

/-! ## The transitions (R200, Table K1) -/

/-- The phase moves only by an operation that Table K1 names. -/
theorem keyPhase_kept_by_other {i : Instr} {s t : State} (h : exec i s = .next t) (hkexb : ∀ k, i ≠ .kexb k)
    (hkexc : i ≠ .kexc) (hkexa : i ≠ .kexa) (hsrst : i ≠ .srst) : keyPhase t = keyPhase s := by
  obtain ⟨hkey, hcandidate, -⟩ := eachRegisterChangesOnlyByItsWriters i s t h
  have hneg : t.neg = s.neg := by
    by_contra hne
    simpa [hkexc, hsrst] using hkey (.inr hne)
  have hkexp : t.kexp = s.kexp := by
    by_contra hne
    simpa [hkexb, hkexc, hkexa, hsrst] using hcandidate (.inr hne)
  simp only [keyPhase, hneg, hkexp]

/-- Each operation moves the phase as its row of Table K1 says. -/
theorem keyPhase_of_exec {i : Instr} {s t : State} (hinv : KeyringInv s) (h : exec i s = .next t) :
    keyPhase t = nextKeyPhase (keyPhase s) i := by
  cases i with
  | kexb k =>
    rcases exec_kexb_cases k s with ⟨hbusy, hexec⟩ | ⟨hneg, hkexp, hexec⟩ <;> rw [hexec, Host.Outcome.next.injEq] at h
    · have hphase : keyPhase s ≠ .unkeyed := by
        rcases hbusy with hneg | hkexp
        · simp [keyPhase_eq_unkeyed_iff, hneg]
        · simp [keyPhase_eq_unkeyed_iff, hkexp]
      rw [nextKeyPhase, if_neg hphase, ← h, keyPhase_raiseError]
    · rw [nextKeyPhase, if_pos (keyPhase_eq_unkeyed_iff.2 ⟨hneg, hkexp⟩), keyPhase_eq_pending_iff, ← h]
      exact ⟨hneg, rfl⟩
  | kexc =>
    rcases exec_kexc_cases s with ⟨hkexp, hexec⟩ | ⟨hkexp, hexec⟩ <;> rw [hexec, Host.Outcome.next.injEq] at h
    · rw [nextKeyPhase, if_pos (keyPhase_eq_pending_iff.2 ⟨hinv.neg_of_pending hkexp, hkexp⟩), keyPhase_eq_keyed_iff, ← h]
      rfl
    · rw [nextKeyPhase, if_neg (by simp [keyPhase_eq_pending_iff, hkexp]), ← h, keyPhase_raiseError]
  | kexa =>
    rcases exec_kexa_cases s with ⟨hkexp, hexec⟩ | ⟨hkexp, hexec⟩ <;> rw [hexec, Host.Outcome.next.injEq] at h
    · have hneg := hinv.neg_of_pending hkexp
      rw [nextKeyPhase, if_pos (keyPhase_eq_pending_iff.2 ⟨hneg, hkexp⟩), keyPhase_eq_unkeyed_iff, ← h]
      exact ⟨hneg, rfl⟩
    · rw [nextKeyPhase, if_neg (by simp [keyPhase_eq_pending_iff, hkexp]), ← h, keyPhase_raiseError]
  | srst =>
    rw [exec_srst, Host.Outcome.next.injEq] at h
    rw [← h]
    rfl
  | enc | csum | rxb | rxe | setv | rdst => exact keyPhase_kept_by_other h (by simp) (by simp) (by simp) (by simp)

/-- Settles O36: Table K1 row by row, and the active key by NEG. -/
theorem keyPhaseMovesAsTheTableSays : Obligations.KeyPhaseMovesAsTheTableSays :=
  ⟨fun _ _ _ => keyPhase_of_exec, fun _ => activeKey_of_not_keyed⟩

/-! ## The handshake (R206, R208) -/

/-- The handshake with a short write, from Unkeyed: KEXA takes back all of KEXB but its frame, TX_SEQ and the responses. -/
theorem runOps_negotiate_aborted (k : Word) {s : State} {len written : Nat} (hinv : KeyringInv s)
    (hneg : s.neg = false) (hkexp : s.kexp = false) (hshort : written ≠ len) :
    runOps (expandNegotiate k len written) s = .next { s with
      tx := s.tx ++ [setCrcKeyFrame k]
      txSeq := 1
      responses := s.responses ++ [⟨0#8, 1#32⟩, ⟨0#8, 0#32⟩] } := by
  rw [expandNegotiate, if_neg hshort]
  simp only [runOps, exec_kexb_unkeyed k hneg hkexp]
  rw [exec_kexa_pending rfl]
  simp only [List.append_assoc, List.cons_append, List.nil_append, hkexp, hinv.pkey_of_idle hkexp]

/-- Settles O37: the aborted handshake leaves the block Unkeyed, so KEXB runs again and its frame depends on the candidate alone. -/
theorem abortedExchangeLeavesTheKeyringUntouched : Obligations.AbortedExchangeLeavesTheKeyringUntouched := by
  intro s k len written hinv hphase hshort
  obtain ⟨hneg, hkexp⟩ := keyPhase_eq_unkeyed_iff.1 hphase
  exact ⟨_, _, _, runOps_negotiate_aborted k hinv hneg hkexp hshort, rfl, exec_kexb_unkeyed k hneg hkexp, rfl⟩

/-! ## The ordering law (R209) -/

/-- What every operation keeps, every run of operations keeps. -/
theorem runOps_keeps {P : State → Prop} (hkept : ∀ {i s t}, exec i s = .next t → P s → P t) {ops : List Instr} {s t : State}
    (h : runOps ops s = .next t) (hs : P s) : P t := by
  induction ops generalizing s with
  | nil =>
    rw [runOps, Host.Outcome.next.injEq] at h
    exact h ▸ hs
  | cons i ops ih =>
    obtain ⟨u, hu⟩ := exec_total i s
    rw [runOps, hu] at h
    exact ih h (hkept hu hs)

/-- From a keyed state, through any run of operations without SRST, ENC frames under the session key. -/
theorem enc_after_keyed_run {s : State} {k : Word} {ops : List Instr} (hinv : KeyringInv s) (hneg : s.neg = true)
    (hskey : s.skey = some k) (hops : ∀ i ∈ ops, i ≠ .srst) (op : Byte) {data : List Byte} (hlen : data.length ≤ 516096) :
    ∃ t u, runOps ops s = .next t ∧ exec (.enc op data) t = .next u ∧ u.tx = t.tx ++ encodeCommand op data k := by
  obtain ⟨t, hrun, htneg, htskey⟩ := runOps_keyed_kept ops s hinv hneg hops
  have htinv : KeyringInv t := runOps_keeps (fun h => (effect_of_exec h).keyringInv) hrun hinv
  refine ⟨t, _, hrun, exec_enc_framed op (htinv.kexp_of_keyed htneg) hlen, ?_⟩
  rw [activeKey_negotiated htneg (htskey.trans hskey)]

/-- The exchange that succeeds: KEXB frames under the default key, and the KEXC that follows leaves the candidate as session key. -/
theorem exec_kexb_then_kexc (k : Word) {s : State} (hneg : s.neg = false) (hkexp : s.kexp = false) :
    ∃ s₁ s₂, exec (.kexb k) s = .next s₁ ∧
      s₁.tx = s.tx ++ [setCrcKeyFrame k] ∧
      exec .kexc s₁ = .next s₂ ∧ KeyringInv s₂ ∧ s₂.neg = true ∧ s₂.skey = some k :=
  ⟨_, _, exec_kexb_unkeyed k hneg hkexp, rfl, exec_kexc_pending rfl rfl, by simp [KeyringInv], rfl, rfl⟩

/-- Settles O38: KEXB runs before NEG is set, the run after it in a keyed session; KCRC tells keys apart. -/
theorem keyExchangeOrderingLaw : Obligations.KeyExchangeOrderingLaw := by
  refine ⟨fun s k ops op data hneg hkexp hops hlen => ?_, fun k chunk hk h => hk (kcrc_injective chunk h)⟩
  obtain ⟨s₁, s₂, hkexb, hframe, hkexc, hinv, hneg₂, hskey⟩ := exec_kexb_then_kexc k hneg hkexp
  obtain ⟨s₃, s₄, hrun, henc, htx⟩ := enc_after_keyed_run hinv hneg₂ hskey hops op hlen
  exact ⟨s₁, s₂, s₃, s₄, hkexb, hframe, hkexc, hrun, henc, htx⟩

end Sys2Proof.Machine

/-! PROOFS of the family 44_system_ops: the operations SETV, RDST and SRST (44_system_ops R220 to R222), the STATUS word (10_state R44,
Table S2) and the printer calls (R226, R228, R231). -/

namespace Sys2Proof.Machine

/-! ## ENC of a payload of one chunk (41_framer R150 to R152) -/

/-- A payload within MAX_CHUNK is its own only chunk. -/
theorem splitPayload_of_short {payload : List Byte} (h : payload.length ≤ 2016) : splitPayload payload = [payload] := by
  have hcount : chunkCount payload.length = 1 := by rw [chunkCount_eq]; omega
  have hchunk : chunkAt payload 0 = payload := by simpa [chunkAt, Config.maxChunk] using h
  rw [splitPayload, hcount, List.range_one, List.map_singleton, hchunk]

theorem encodeCommand_of_short (op : Byte) {payload : List Byte} (key : Word) (h : payload.length ≤ 2016) :
    encodeCommand op payload key = [frameBytes op 0 payload key] := by
  rw [encodeCommand, splitPayload_of_short h, List.mapIdx_singleton]
  rfl

/-- ENC of a payload within MAX_CHUNK emits one frame, of sequence number 0. -/
theorem exec_enc_one_frame (op : Byte) {data : List Byte} {s : State} (hk : s.kexp = false) (hlen : data.length ≤ 2016) :
    ∃ t, exec (.enc op data) s = .next t ∧ t.tx = s.tx ++ [frameBytes op 0 data (activeKey s)] := by
  refine ⟨_, exec_enc_framed op hk (hlen.trans (by decide)), ?_⟩
  rw [encodeCommand_of_short op (activeKey s) hlen]

/-! ## The printer calls (R226, R228, R231) -/

/-- A frame whose length fits the low length byte (R151). -/
theorem frameBytes_of_length_lt (op seq : Byte) {chunk : List Byte} (key : Word) (h : chunk.length < 256) :
    frameBytes op seq chunk key =
      [0x02#8, op, seq, BitVec.ofNat 8 chunk.length, 0x00#8] ++ chunk ++ le32 (kcrc key chunk) ++ [0x03#8] := by
  rw [frameBytes, le16_ofNat (by omega), Nat.mod_eq_of_lt h, Nat.div_eq_of_lt h]
  rfl

/-- Settles O44: each call is one ENC of a payload of one chunk. -/
theorem printerCallsEmitOneFrame : Obligations.PrinterCallsEmitOneFrame := by
  intro s hk
  constructor
  · intro b c n hcall
    have hexpand : expandPrinterCall c = .enc (Config.opc n) [b] := by
      rcases hcall with ⟨rfl, rfl⟩ | ⟨rfl, rfl⟩ <;> rfl
    obtain ⟨t, hexec, htx⟩ := exec_enc_one_frame (Config.opc n) (data := [b]) hk (by simp)
    exact ⟨hexpand, t, _, hexpand ▸ hexec, htx, frameBytes_length _ _ _ _, frameBytes_of_length_lt _ _ _ (by simp)⟩
  · intro n
    obtain ⟨t, hexec, htx⟩ := exec_enc_one_frame (Config.opc .feedLine) (data := le16 n) hk (by simp)
    exact ⟨rfl, t, _, hexec, htx, frameBytes_length _ _ _ _, frameBytes_of_length_lt _ _ _ (by simp)⟩

/-! ## SETV (R220) -/

/-- The decoder refuses SETV with a bit of ARG8 above bit 0. -/
theorem decode_setv_of_malformed {arg : Byte} (h : 1 < arg.toNat) : decode (encode (.setv arg)) = .error .argument := by
  have hbits : arg.extractLsb' 1 7 ≠ 0#7 := mt (argBits_eq_zero_iff arg).1 (Nat.not_le_of_lt h)
  simp [decode, encode, acceptIf, hbits]

/-- Settles O40: ARG8 0 and 1 are the two legal arguments, and bit 0 of each is the switch it writes. -/
theorem setvWritesTheVerificationSwitch : Obligations.SetvWritesTheVerificationSwitch := by
  refine ⟨malformedIsRefused 8, fun en => ?_, fun s en => ?_, fun arg h => ⟨_, decode_setv_of_malformed h⟩⟩
  · cases en with
    | false => exact decode_encode (i := .setv 0) rfl
    | true => exact decode_encode (i := .setv 1) rfl
  · cases en with
    | false => exact exec_setv_of_legal (arg := 0) (by decide) s
    | true => exact exec_setv_of_legal (arg := 1) (by decide) s

/-! ## The STATUS word (10_state R44, Table S2) -/

/-- A flag in place `k` of a word is that one bit. -/
theorem getLsbD_flagWord_shiftLeft (b : Bool) (k : Nat) {i : Nat} (hi : i < 32) :
    (flagWord b <<< k).getLsbD i = (decide (i = k) && b) := by
  cases b with
  | false => simp [flagWord]
  | true =>
    simp only [flagWord, if_pos, BitVec.getLsbD_shiftLeft, BitVec.getLsbD_one]
    grind

section
variable (s : State)

/-- STATUS bit by bit: Table S2. -/
theorem getLsbD_statusWord {i : Nat} (hi : i < 32) : (statusWord s).getLsbD i =
    (decide (i = 0) && s.neg || decide (i = 1) && s.kexp || decide (i = 2) && s.verifyEn ||
      decide (i = 3) && rxBusy s || decide (8 ≤ i) && s.txSeq.getLsbD (i - 8)) := by
  have hneg : (flagWord s.neg).getLsbD i = (decide (i = 0) && s.neg) := by
    simpa only [BitVec.shiftLeft_zero] using getLsbD_flagWord_shiftLeft s.neg 0 hi
  have hseq : (s.txSeq.setWidth 32 <<< 8).getLsbD i = (decide (8 ≤ i) && s.txSeq.getLsbD (i - 8)) := by
    rw [BitVec.getLsbD_shiftLeft, BitVec.getLsbD_setWidth]
    grind
  simp only [statusWord, BitVec.getLsbD_or, hneg, getLsbD_flagWord_shiftLeft _ _ hi, hseq]

theorem statusWord_neg : (statusWord s).getLsbD 0 = s.neg := by
  rw [getLsbD_statusWord s (by decide)]
  simp

theorem statusWord_kexp : (statusWord s).getLsbD 1 = s.kexp := by
  rw [getLsbD_statusWord s (by decide)]
  simp

theorem statusWord_verifyEn : (statusWord s).getLsbD 2 = s.verifyEn := by
  rw [getLsbD_statusWord s (by decide)]
  simp

theorem statusWord_rxBusy : (statusWord s).getLsbD 3 = rxBusy s := by
  rw [getLsbD_statusWord s (by decide)]
  simp

/-- Above the flags STATUS holds TX_SEQ alone. -/
theorem getLsbD_statusWord_of_ge {i : Nat} (hflags : 4 ≤ i) (hi : i < 32) :
    (statusWord s).getLsbD i = (decide (8 ≤ i) && s.txSeq.getLsbD (i - 8)) := by
  rw [getLsbD_statusWord s hi]
  simp [show i ≠ 0 by omega, show i ≠ 1 by omega, show i ≠ 2 by omega, show i ≠ 3 by omega]

theorem statusWord_reserved_low : (statusWord s).extractLsb' 4 4 = 0 := by
  ext i hi
  rw [BitVec.getElem_extractLsb', getLsbD_statusWord_of_ge s (by omega) (by omega), decide_eq_false (by omega)]
  simp

theorem statusWord_txSeq : (statusWord s).extractLsb' 8 8 = s.txSeq := by
  ext i hi
  rw [BitVec.getElem_extractLsb', getLsbD_statusWord_of_ge s (by omega) (by omega)]
  simp [hi]

theorem statusWord_reserved_high : (statusWord s).extractLsb' 16 16 = 0 := by
  ext i hi
  rw [BitVec.getElem_extractLsb', getLsbD_statusWord_of_ge s (by omega) (by omega), BitVec.getLsbD_of_ge _ _ (by omega)]
  simp

end

theorem rxBusy_iff {s : State} : rxBusy s = true ↔ s.rxPos ≠ 0 := bne_iff_ne

/-- STATUS is 0 exactly when every item it shows is. -/
theorem statusWord_eq_zero_iff {s : State} : statusWord s = 0#32 ↔
    s.neg = false ∧ s.kexp = false ∧ s.verifyEn = false ∧ s.rxPos = 0 ∧ s.txSeq = 0 := by
  constructor
  · intro h
    have hbusy : rxBusy s = false := by rw [← statusWord_rxBusy, h]; rfl
    refine ⟨?_, ?_, ?_, by simpa [rxBusy] using hbusy, ?_⟩
    · rw [← statusWord_neg, h]; rfl
    · rw [← statusWord_kexp, h]; rfl
    · rw [← statusWord_verifyEn, h]; rfl
    · rw [← statusWord_txSeq, h]; rfl
  · rintro ⟨hneg, hkexp, hverify, hpos, hseq⟩
    simp [statusWord, rxBusy, flagWord, hneg, hkexp, hverify, hpos, hseq]

/-! ## RDST (R221) -/

/-- RDST is one response (R221). -/
theorem exec_rdst (s : State) :
    exec .rdst s = .next { s with responses := s.responses ++ [⟨0#8, statusWord s⟩] } := rfl

/-- Settles O41: the response is STATUS, whose fields are read off bit by bit. -/
theorem rdstAnswersTheStatusLayout : Obligations.RdstAnswersTheStatusLayout :=
  ⟨decode_encode (i := .rdst) rfl, malformedIsRefused 9, fun s => ⟨statusWord s, exec_rdst s, statusWord_neg s,
    statusWord_kexp s, statusWord_verifyEn s, by rw [statusWord_rxBusy, rxBusy_iff], statusWord_reserved_low s,
    statusWord_txSeq s, statusWord_reserved_high s, statusWord_eq_zero_iff⟩⟩

/-! ## SRST (R222) -/

/-- Settles O42: SRST is the session reset, which leaves nothing negotiated and every item of STATUS at 0. -/
theorem srstRestoresTheResetState : Obligations.SrstRestoresTheResetState := by
  refine ⟨decode_encode (i := .srst) rfl, malformedIsRefused 10, fun s => ⟨exec_srst s, _, exec_srst s, ?_, ?_, ?_⟩⟩
  · exact activeKey_unnegotiated rfl
  · exact keyPhase_eq_unkeyed_iff.2 ⟨rfl, rfl⟩
  · exact statusWord_eq_zero_iff.2 ⟨rfl, rfl, rfl, rfl, rfl⟩

end Sys2Proof.Machine

/-! PROOFS of the family 60_exceptions: when OversizedCommand is raised (60_exceptions R245), what a failed operation leaves (R252,
Table E1) and the step that holds the state (R266). -/

namespace Sys2Proof.Machine

/-! ## The step with no operation presented (R266) -/

/-- Settles O8: the equation of `step` for an empty command port. -/
theorem stepWithoutAnInputHoldsTheState : Obligations.StepWithoutAnInputHoldsTheState :=
  fun _ => step_without_input

/-! ## The response of a run that is given (R240, R251) -/

section
variable {i : Instr} {s t : State} {r : Response}

/-- The response an operation gave carries the code of an error exactly when it raised that error. -/
theorem response_code_eq_errorCode_iff (h : exec i s = .next t) (hresp : t.responses = s.responses ++ [r])
    (e : ErrorKind) : r.code = errorCode e ↔ raisedError i s = some e := by
  obtain ⟨u, q, hu, hq, hcode, -⟩ := exec_answersAsRaised i s
  obtain rfl := Host.Outcome.next.inj (h.symm.trans hu)
  have hrq : r = q := by simpa [hresp] using hq
  rw [hrq, hcode]
  exact responseCode_injective.eq_iff (b := some e)

/-- IllegalOp is raised before anything is written (R251). -/
theorem exec_of_illegalOp (h : raisedError i s = some .illegalOp) :
    exec i s = .next (raiseError .illegalOp (encode i).cw s) := by
  rcases raisedError_illegalOp_iff.1 h with
    ⟨⟨op, data, rfl⟩, hk⟩ | ⟨⟨k, rfl⟩, hbusy⟩ | ⟨rfl | rfl, hk⟩ | ⟨arg, rfl, harg⟩
  · exact exec_enc_pending op data hk
  · exact exec_kexb_refused k hbusy
  · exact exec_kexc_refused hk
  · exact exec_kexa_refused hk
  · rcases exec_setv_cases arg s with ⟨hle, _⟩ | ⟨_, hexec⟩
    · exact absurd harg (Nat.not_lt_of_le hle)
    · exact hexec

/-! ## OversizedCommand (R245) -/

/-- OversizedCommand is raised before anything is written, with the saturated length as its info word. -/
theorem exec_of_oversized (h : raisedError i s = some .oversizedCommand) :
    ∃ op data, i = .enc op data ∧ s.kexp = false ∧ 516096 < data.length ∧
      exec i s = .next (raiseError .oversizedCommand (BitVec.ofNat 32 (min data.length 0xFFFFFFFF)) s) := by
  obtain ⟨op, data, rfl, hk, hlong⟩ := raisedError_oversized_iff.1 h
  exact ⟨op, data, rfl, hk, hlong, exec_enc_oversized op hk hlong⟩

end

/-- Under WRAP an ENC is refused as IllegalOp or framed (R153). -/
theorem encUnder_wrap_not_oversized (op : Byte) (data : List Byte) (s : State) (v : Word) :
    (encUnder .wrap op data s).responses ≠ s.responses ++ [⟨0x04#8, v⟩] := by
  cases hk : s.kexp with
  | true => simp [encUnder, hk, errorCode]
  | false => simp [encUnder_framed op hk]

/-- Settles O19: the code tells which error was raised, and the response of a long ENC is known. -/
theorem oversizedCommandRaisedExactlyByLongEnc : Obligations.OversizedCommandRaisedExactlyByLongEnc := by
  refine ⟨fun i s t v h => ⟨fun hresp => ?_, ?_⟩, fun op data s t hk hlong h => ?_, encUnder_wrap_not_oversized⟩
  · have hraised := (response_code_eq_errorCode_iff h hresp .oversizedCommand).1 rfl
    obtain ⟨op, data, hi, hk, hlong, hexec⟩ := exec_of_oversized hraised
    obtain rfl := Host.Outcome.next.inj (h.symm.trans hexec)
    have hv : BitVec.ofNat 32 (min data.length 0xFFFFFFFF) = v := by simpa [errorCode] using hresp
    exact ⟨op, data, hi, hk, hlong, hv.symm⟩
  · rintro ⟨op, data, rfl, hk, hlong, rfl⟩
    obtain rfl := Host.Outcome.next.inj (h.symm.trans (exec_enc_oversized op hk hlong))
    rfl
  · obtain rfl := Host.Outcome.next.inj (h.symm.trans (exec_enc_oversized op hk hlong))
    rfl

/-! ## What a failed operation leaves (R252, Table E1) -/

section
variable {i : Instr} {s t : State} {r : Response}

/-- After IllegalOp and OversizedCommand only the response is new. -/
theorem refused_leaves_state (h : exec i s = .next t) (hresp : t.responses = s.responses ++ [r])
    (hraised : raisedError i s = some .illegalOp ∨ raisedError i s = some .oversizedCommand) :
    t = { s with responses := s.responses ++ [r] } := by
  have hexec : ∃ e v, exec i s = .next (raiseError e v s) := by
    rcases hraised with hillegal | hlong
    · exact ⟨_, _, exec_of_illegalOp hillegal⟩
    · obtain ⟨_, _, -, -, -, hexec⟩ := exec_of_oversized hlong
      exact ⟨_, _, hexec⟩
  obtain ⟨e, v, hexec⟩ := hexec
  obtain rfl := Host.Outcome.next.inj (h.symm.trans hexec)
  rw [← hresp]
  rfl

/-- After TruncationError the incomplete frame is dropped, and the info word is the number of its bytes. -/
theorem truncation_leaves_boundary (h : exec i s = .next t) (hresp : t.responses = s.responses ++ [r])
    (hraised : raisedError i s = some .truncationError) :
    t = { s with rxPos := 0, rxPay := [], responses := s.responses ++ [r] } ∧ r.value.toNat = s.rxPos.toNat := by
  obtain ⟨rfl, hpos⟩ := raisedError_truncation_iff.1 hraised
  obtain rfl := Host.Outcome.next.inj (h.symm.trans (exec_rxe_of_incomplete hpos))
  have hr : ⟨0x03#8, BitVec.ofNat 32 s.rxPos.toNat⟩ = r := by simpa using hresp
  subst hr
  exact ⟨rfl, Nat.mod_eq_of_lt (s.rxPos.isLt.trans (by decide))⟩

/-- After ChecksumMismatch the record stands delivered, marked as a mismatch, and the deframer is at a frame boundary. -/
theorem mismatch_leaves_record (h : exec i s = .next t) (hresp : t.responses = s.responses ++ [r])
    (hraised : raisedError i s = some .checksumMismatch) :
    ∃ rec : Record, rec.crcStatus = .mismatch ∧ t = { s with
      rxPos := 0, rxPay := [], records := s.records ++ [rec], responses := s.responses ++ [r] } := by
  obtain ⟨⟨b, rfl⟩, h5, hlast, hbad⟩ := raisedError_mismatch_iff.1 hraised
  obtain ⟨q, hdeliver, -⟩ := rxDeliver_frame s
  have hexec := exec_rxb_eq_rxDeliver b (rxCompletes_iff.2 ⟨h5, hlast⟩)
  obtain rfl := Host.Outcome.next.inj (h.symm.trans (hexec.trans (congrArg _ hdeliver)))
  exact ⟨rxRecord s, (crcVerdict_eq_mismatch_iff s).2 hbad, by rw [← hresp]⟩

end

/-- Settles O47: the code tells which error was raised, and each error has one lemma for what it leaves. -/
theorem failedOperationLeavesWhatTheTableSays : Obligations.FailedOperationLeavesWhatTheTableSays := by
  intro i s t r h hresp
  have hiff := response_code_eq_errorCode_iff h hresp
  exact ⟨fun hcode => refused_leaves_state h hresp (hcode.imp (hiff .illegalOp).1 (hiff .oversizedCommand).1),
    fun hcode => truncation_leaves_boundary h hresp ((hiff .truncationError).1 hcode),
    fun hcode => mismatch_leaves_record h hresp ((hiff .checksumMismatch).1 hcode)⟩

end Sys2Proof.Machine

/-! PROOFS of the family 70_reset_and_hazards: the hardware reset beside the operation SRST (70_reset_and_hazards R280, 44_system_ops
R222). -/

namespace Sys2Proof.Machine

/-- SRST is the hardware reset followed by its response OK (R280, R222). -/
theorem exec_srst_eq_respondOk_hardwareReset (s : State) : exec .srst s = .next (respondOk 0 (hardwareReset s)) :=
  exec_srst s

/-- Settles O9: the state reached is the hardware reset's, and SRST adds only its response to it. -/
theorem hardwareResetHasTheEffectOfSrstWithoutAResponse :
    Obligations.HardwareResetHasTheEffectOfSrstWithoutAResponse :=
  fun _ _ hin => ⟨_, step_of_hardwareReset hin, hardwareReset_responses _, hardwareReset_inputs _,
    exec_srst_eq_respondOk_hardwareReset _⟩

end Sys2Proof.Machine
